-- ==== Sys2Proof/Word.lean ====
section
/-! DEFINITION. The word types of the Bayer CFA sampler: only what the spec treats as bits (00_scope R9). Sizes,
addresses in computations, coordinates and counts are natural numbers (00_scope R7, R8). -/

namespace Sys2Proof

/-- One byte of system memory (20_memory R50). -/
abbrev Byte := BitVec 8

/-- One output sample (00_scope R6, `OUT_BITS`). -/
abbrev Sample16 := BitVec 16

/-- A register value, or the DATA field of a command word (00_scope R6, `REG_W`). -/
abbrev Word32 := BitVec 32

/-- The WOFF field: a word offset in the register window (30_encoding R80). -/
abbrev Woff := BitVec 4

/-- A command word, RW WOFF DATA (30_encoding R80). -/
abbrev CommandWord := BitVec 37

end Sys2Proof
end

