-- ==== Sys2Proof/Syntax.lean ====
section
/-! DEFINITION. The instructions: the 25 register transactions of spec/opcode_table.json, one constructor each. A read
has no operand (30_encoding R83: DATA is ignored). A row that covers several word offsets carries WOFF; a write carries
its whole DATA, the ignored bits too, so that no bit of a write's encoding is dropped. -/

namespace Sys2Proof

/-- The transactions a host can send (30_encoding R85). -/
inductive Instr where
  | rdCtrl
  | rdStatus
  | rdCmd
  | rdSrcAddr
  | rdDstAddr
  | rdSrcWidth
  | rdSrcHeight
  | rdOutWidth
  | rdOutHeight
  | rdCfaPattern
  | rdRsvdA (woff : Woff)
  | rdRsvdB (woff : Woff)
  | wrCtrl (data : Word32)
  | wrStatus (data : Word32)
  | wrCmdStart (data : Word32)
  | wrCmdNop (data : Word32)
  | wrSrcAddr (data : Word32)
  | wrDstAddr (data : Word32)
  | wrSrcWidth (data : Word32)
  | wrSrcHeight (data : Word32)
  | wrOutWidth (data : Word32)
  | wrOutHeight (data : Word32)
  | wrCfaPattern (data : Word32)
  | wrRsvdA (woff : Woff) (data : Word32)
  | wrRsvdB (woff : Woff) (data : Word32)
  deriving DecidableEq, Repr

/-- The row's mnemonic, as spec/opcode_table.json spells it. -/
def Instr.mnemonic : Instr → String
  | .rdCtrl => "RD_CTRL"
  | .rdStatus => "RD_STATUS"
  | .rdCmd => "RD_CMD"
  | .rdSrcAddr => "RD_SRC_ADDR"
  | .rdDstAddr => "RD_DST_ADDR"
  | .rdSrcWidth => "RD_SRC_WIDTH"
  | .rdSrcHeight => "RD_SRC_HEIGHT"
  | .rdOutWidth => "RD_OUT_WIDTH"
  | .rdOutHeight => "RD_OUT_HEIGHT"
  | .rdCfaPattern => "RD_CFA_PATTERN"
  | .rdRsvdA _ => "RD_RSVD_A"
  | .rdRsvdB _ => "RD_RSVD_B"
  | .wrCtrl _ => "WR_CTRL"
  | .wrStatus _ => "WR_STATUS"
  | .wrCmdStart _ => "WR_CMD_START"
  | .wrCmdNop _ => "WR_CMD_NOP"
  | .wrSrcAddr _ => "WR_SRC_ADDR"
  | .wrDstAddr _ => "WR_DST_ADDR"
  | .wrSrcWidth _ => "WR_SRC_WIDTH"
  | .wrSrcHeight _ => "WR_SRC_HEIGHT"
  | .wrOutWidth _ => "WR_OUT_WIDTH"
  | .wrOutHeight _ => "WR_OUT_HEIGHT"
  | .wrCfaPattern _ => "WR_CFA_PATTERN"
  | .wrRsvdA _ _ => "WR_RSVD_A"
  | .wrRsvdB _ _ => "WR_RSVD_B"

end Sys2Proof
end

