-- ==== Sys2Proof/WellFormed.lean ====
section
/-! DEFINITION. Which terms of `Instr` stand for command words: the operand values the match and mask of the
instruction's own row admit (30_encoding R85). -/

namespace Sys2Proof

/-- The rows *_RSVD_A: WOFF[3:1] = 0b101, so WOFF is 10 or 11 (30_encoding R85). -/
abbrev Woff.isRsvdA (woff : Woff) : Bool := woff.extractLsb' 1 3 == 0b101#3

/-- The rows *_RSVD_B: WOFF[3:2] = 0b11, so WOFF is 12 to 15 (30_encoding R85). -/
abbrev Woff.isRsvdB (woff : Woff) : Bool := woff.extractLsb' 2 2 == 0b11#2

/-- DATA[0], the START bit of a CMD write (10_state R34, 30_encoding R84). -/
abbrev Word32.isStart (data : Word32) : Bool := data.getLsbD 0

/-- The operand values the instruction's row of the opcode table admits (30_encoding R85). -/
def Instr.wellFormed : Instr → Bool
  | .rdCtrl | .rdStatus | .rdCmd | .rdSrcAddr | .rdDstAddr | .rdSrcWidth | .rdSrcHeight
  | .rdOutWidth | .rdOutHeight | .rdCfaPattern => true
  | .rdRsvdA woff => Woff.isRsvdA woff
  | .rdRsvdB woff => Woff.isRsvdB woff
  | .wrCtrl _ | .wrStatus _ => true
  | .wrCmdStart data => Word32.isStart data
  | .wrCmdNop data => !Word32.isStart data
  | .wrSrcAddr _ | .wrDstAddr _ | .wrSrcWidth _ | .wrSrcHeight _
  | .wrOutWidth _ | .wrOutHeight _ | .wrCfaPattern _ => true
  | .wrRsvdA woff _ => Woff.isRsvdA woff
  | .wrRsvdB woff _ => Woff.isRsvdB woff

/-- The check as a proposition. -/
abbrev Instr.WellFormed (i : Instr) : Prop := i.wellFormed = true

end Sys2Proof
end

