-- ==== Sys2Proof/Decode.lean ====
section
/-! DEFINITION. The decoder, the encoder and the opcode table (30_encoding R80 to R89). -/

namespace Sys2Proof

/-- RW, bit 36: 0 is a register read, 1 a register write (30_encoding R80, R81). -/
def CommandWord.isWrite (w : CommandWord) : Bool := w.getLsbD 36

/-- WOFF, bits 35:32 (30_encoding R80, R82). -/
def CommandWord.woff (w : CommandWord) : Woff := w.extractLsb' 32 4

/-- DATA, bits 31:0 (30_encoding R80, R83). -/
def CommandWord.data (w : CommandWord) : Word32 := w.extractLsb' 0 32

/-- The read rows (30_encoding R85, column RW = 0). -/
def decodeRead (woff : Woff) : Instr :=
  if woff = 0#4 then .rdCtrl
  else if woff = 1#4 then .rdStatus
  else if woff = 2#4 then .rdCmd
  else if woff = 3#4 then .rdSrcAddr
  else if woff = 4#4 then .rdDstAddr
  else if woff = 5#4 then .rdSrcWidth
  else if woff = 6#4 then .rdSrcHeight
  else if woff = 7#4 then .rdOutWidth
  else if woff = 8#4 then .rdOutHeight
  else if woff = 9#4 then .rdCfaPattern
  else if Woff.isRsvdA woff then .rdRsvdA woff
  else .rdRsvdB woff

/-- The write rows (30_encoding R85, column RW = 1). -/
def decodeWrite (woff : Woff) (data : Word32) : Instr :=
  if woff = 0#4 then .wrCtrl data
  else if woff = 1#4 then .wrStatus data
  else if woff = 2#4 then (if Word32.isStart data then .wrCmdStart data else .wrCmdNop data)
  else if woff = 3#4 then .wrSrcAddr data
  else if woff = 4#4 then .wrDstAddr data
  else if woff = 5#4 then .wrSrcWidth data
  else if woff = 6#4 then .wrSrcHeight data
  else if woff = 7#4 then .wrOutWidth data
  else if woff = 8#4 then .wrOutHeight data
  else if woff = 9#4 then .wrCfaPattern data
  else if Woff.isRsvdA woff then .wrRsvdA woff data
  else .wrRsvdB woff data

/-- The instruction a command word stands for: the table is complete, so every word has one (30_encoding R85, R87). -/
def decodeWord (w : CommandWord) : Instr :=
  if w.isWrite then decodeWrite w.woff w.data else decodeRead w.woff

/-- Why a byte string is no command word. -/
inductive DecodeReject where
  /-- Fewer than the five bytes that hold 37 bits. Raised by `decodeBytes`. Safe. -/
  | tooShort
  /-- More than five bytes: every command word is 37 bits (30_encoding R89). Raised by `decodeBytes`. Safe. -/
  | tooLong
  deriving DecidableEq, Repr

/-- The command word in a five-byte container, least significant byte first. Bits 39:37 of the container are no bits of
a command word and no row's mask covers them (30_encoding R80, R85), so they are dropped. DESIGN CHOICE, log 11. -/
def decodeBytes : List Byte → Except DecodeReject Instr
  | [b0, b1, b2, b3, b4] => .ok (decodeWord ((b4 ++ b3 ++ b2 ++ b1 ++ b0 : BitVec 40).setWidth 37))
  | [] | [_] | [_, _] | [_, _, _] | [_, _, _, _] => .error .tooShort
  | _ => .error .tooLong

/-- The five-byte container of the number `w`, of which only the low `nbits` bits are kept. Log 11. -/
def commandBytes (nbits w : Nat) : List Byte :=
  (List.range 5).map fun k => BitVec.ofNat 8 ((w % 2 ^ nbits) / 256 ^ k)

/-- The instruction the decoder reads from a table word of `nbits` bits. -/
def decodeTableWord (nbits w : Nat) : Option Instr :=
  match decodeBytes (commandBytes nbits w) with
  | .ok i => some i
  | .error _ => none

/-- A read word; DATA is canonically 0 (30_encoding R80, R90). -/
def encodeRead (woff : Woff) : CommandWord := 0#1 ++ woff ++ 0#32

/-- A write word (30_encoding R80). -/
def encodeWrite (woff : Woff) (data : Word32) : CommandWord := 1#1 ++ woff ++ data

/-- The command word of an instruction (30_encoding R80, R85). -/
def encode : Instr → CommandWord
  | .rdCtrl => encodeRead 0#4
  | .rdStatus => encodeRead 1#4
  | .rdCmd => encodeRead 2#4
  | .rdSrcAddr => encodeRead 3#4
  | .rdDstAddr => encodeRead 4#4
  | .rdSrcWidth => encodeRead 5#4
  | .rdSrcHeight => encodeRead 6#4
  | .rdOutWidth => encodeRead 7#4
  | .rdOutHeight => encodeRead 8#4
  | .rdCfaPattern => encodeRead 9#4
  | .rdRsvdA woff => encodeRead woff
  | .rdRsvdB woff => encodeRead woff
  | .wrCtrl data => encodeWrite 0#4 data
  | .wrStatus data => encodeWrite 1#4 data
  | .wrCmdStart data => encodeWrite 2#4 data
  | .wrCmdNop data => encodeWrite 2#4 data
  | .wrSrcAddr data => encodeWrite 3#4 data
  | .wrDstAddr data => encodeWrite 4#4 data
  | .wrSrcWidth data => encodeWrite 5#4 data
  | .wrSrcHeight data => encodeWrite 6#4 data
  | .wrOutWidth data => encodeWrite 7#4 data
  | .wrOutHeight data => encodeWrite 8#4 data
  | .wrCfaPattern data => encodeWrite 9#4 data
  | .wrRsvdA woff data => encodeWrite woff data
  | .wrRsvdB woff data => encodeWrite woff data

/-- One row of spec/opcode_table.json: its mnemonic, mask and match value. -/
structure OpcodeRow where
  mnemonic : String
  mask : CommandWord
  value : CommandWord
  deriving DecidableEq, Repr

/-- The word is one of the row's: `w AND mask = match` (30_encoding R85). -/
def OpcodeRow.selects (r : OpcodeRow) (w : CommandWord) : Bool := w &&& r.mask == r.value

/-- spec/opcode_table.json, row by row. The decoder does not use it: it is the second reading the decoder is held
against (30_encoding R85). -/
def opcodeTable : List OpcodeRow :=
  [ ⟨"RD_CTRL", 0x1F00000000#37, 0x0000000000#37⟩,
    ⟨"RD_STATUS", 0x1F00000000#37, 0x0100000000#37⟩,
    ⟨"RD_CMD", 0x1F00000000#37, 0x0200000000#37⟩,
    ⟨"RD_SRC_ADDR", 0x1F00000000#37, 0x0300000000#37⟩,
    ⟨"RD_DST_ADDR", 0x1F00000000#37, 0x0400000000#37⟩,
    ⟨"RD_SRC_WIDTH", 0x1F00000000#37, 0x0500000000#37⟩,
    ⟨"RD_SRC_HEIGHT", 0x1F00000000#37, 0x0600000000#37⟩,
    ⟨"RD_OUT_WIDTH", 0x1F00000000#37, 0x0700000000#37⟩,
    ⟨"RD_OUT_HEIGHT", 0x1F00000000#37, 0x0800000000#37⟩,
    ⟨"RD_CFA_PATTERN", 0x1F00000000#37, 0x0900000000#37⟩,
    ⟨"RD_RSVD_A", 0x1E00000000#37, 0x0A00000000#37⟩,
    ⟨"RD_RSVD_B", 0x1C00000000#37, 0x0C00000000#37⟩,
    ⟨"WR_CTRL", 0x1F00000000#37, 0x1000000000#37⟩,
    ⟨"WR_STATUS", 0x1F00000000#37, 0x1100000000#37⟩,
    ⟨"WR_CMD_START", 0x1F00000001#37, 0x1200000001#37⟩,
    ⟨"WR_CMD_NOP", 0x1F00000001#37, 0x1200000000#37⟩,
    ⟨"WR_SRC_ADDR", 0x1F00000000#37, 0x1300000000#37⟩,
    ⟨"WR_DST_ADDR", 0x1F00000000#37, 0x1400000000#37⟩,
    ⟨"WR_SRC_WIDTH", 0x1F00000000#37, 0x1500000000#37⟩,
    ⟨"WR_SRC_HEIGHT", 0x1F00000000#37, 0x1600000000#37⟩,
    ⟨"WR_OUT_WIDTH", 0x1F00000000#37, 0x1700000000#37⟩,
    ⟨"WR_OUT_HEIGHT", 0x1F00000000#37, 0x1800000000#37⟩,
    ⟨"WR_CFA_PATTERN", 0x1F00000000#37, 0x1900000000#37⟩,
    ⟨"WR_RSVD_A", 0x1E00000000#37, 0x1A00000000#37⟩,
    ⟨"WR_RSVD_B", 0x1C00000000#37, 0x1C00000000#37⟩ ]

end Sys2Proof
end

