-- ==== Sys2Proof/Config.lean ====
section
/-! DEFINITION. What this implementation fixes (00_scope R6), and the free values: constants without a body, for the
values the spec leaves open. The parameters the spec leaves OPEN (BASE, BusErr) are plain data of the state
(Machine/State.lean, `Platform`), so that a statement about every state holds for each of their values. -/

namespace Sys2Proof.Config

/-- The number of system memory bytes, 2^AW with AW = 32 (00_scope R6, 20_memory R50). -/
def memorySize : Nat := 2 ^ 32

/-- The size of the register window in bytes: 16 words of 32 bits (10_state R22). -/
def windowSize : Nat := 64

/-- What a byte of system memory reads as that nothing has written. DESIGN CHOICE, unsafe: the spec gives memory no
contents at power-on (10_state R48). Log 6. -/
def unlistedByte : Byte := 0#8

/-- The free bytes: `freeByte n` is the n-th value drawn where the spec says "any byte" or "any value" (41_sample R149,
R150; 70_reset_and_hazards R221, R228, R229). No body, so no proof knows one. DESIGN CHOICE, safe. Log 5. -/
opaque freeByte : Nat → Byte

/-- The free choice between two: `freeChoice n` settles the n-th draw "of 4 or 5" (41_sample R150). No body.
DESIGN CHOICE, safe. Log 5. -/
opaque freeChoice : Nat → Bool

end Sys2Proof.Config
end

