-- ==== Sys2Proof/Machine/State.lean ====
section
/-! DEFINITION. The state of the Bayer CFA sampler and of what it is connected to, as plain data; the reasons a step can
stop; and the state right after reset (10_state, 20_memory, 42_host_interface, 70_reset_and_hazards). -/

namespace Sys2Proof.Machine

/-- The four Bayer patterns, in the order of their CTRL.PATTERN codes 0 to 3 (10_state R24). -/
inductive Pattern where
  | rggb
  | bggr
  | grbg
  | gbrg
  deriving DecidableEq, Repr

/-- CTRL[4:0]. The reserved bits 31:5 have no storage (10_state R23, R28). -/
structure Ctrl where
  /-- CTRL.PATTERN, bits 1:0 (R24). -/
  pattern : Pattern
  /-- CTRL.DEPTH16, bit 2: 16-bit source samples (R25). -/
  depth16 : Bool
  /-- CTRL.ALPHA, bit 3: 4 source channels (R26). -/
  alpha : Bool
  /-- CTRL.IEN, bit 4: interrupt enable (R27). -/
  ien : Bool
  deriving DecidableEq, Repr

/-- STATUS. The reserved bits 3 and 31:8 have no storage (10_state R33). -/
structure Status where
  /-- STATUS.BUSY, bit 0 (R29). ENG.phase is Busy exactly when it is 1 (R43). -/
  busy : Bool
  /-- STATUS.DONE, bit 1 (R30). -/
  done : Bool
  /-- STATUS.ERR, bit 2 (R31). -/
  err : Bool
  /-- STATUS.ERRCODE, bits 7:4 (R32; the codes: 60_exceptions R190). -/
  errcode : BitVec 4
  deriving DecidableEq, Repr

/-- The block's own state, the tuple of 10_state R49. -/
structure Block where
  /-- CTRL (R23). -/
  ctrl : Ctrl
  /-- STATUS (R29 to R33). -/
  status : Status
  /-- SRC_ADDR (R35). -/
  srcAddr : Word32
  /-- DST_ADDR (R36). -/
  dstAddr : Word32
  /-- SRC_WIDTH (R37). -/
  srcWidth : Word32
  /-- SRC_HEIGHT (R38). -/
  srcHeight : Word32
  /-- ENG.snap: the samples the operation will write, in row-major order (R43). -/
  snap : List Sample16
  /-- ENG.raced: the memory write hazard has happened (R43, 70_reset_and_hazards R228). -/
  raced : Bool
  deriving DecidableEq, Repr

/-- ENG.phase (10_state R43). -/
inductive Phase where
  | idle
  | busy
  deriving DecidableEq, Repr

/-- The two kinds of engine access `BusErr` tells apart (00_scope R6, R11). -/
inductive AccessKind where
  | read
  | write
  deriving DecidableEq, Repr

/-- A range of byte addresses, `first` to `first + length - 1`. -/
structure AddrRange where
  first : Nat
  length : Nat
  deriving DecidableEq, Repr

/-- A range of addresses whose engine accesses of one kind get a bus error (20_memory R50). -/
structure ErrRange where
  kind : AccessKind
  range : AddrRange
  deriving DecidableEq, Repr

/-- What the platform decides and the spec leaves OPEN. No step changes it. Log 4. -/
structure Platform where
  /-- `BASE`, the bus address of the register window (00_scope R6, 20_memory R61). -/
  base : Nat
  /-- `BusErr`, as the ranges it holds on (00_scope R6, 20_memory R50). -/
  busErrs : List ErrRange
  /-- The addresses that map devices with side effects (20_memory R59). -/
  devices : List AddrRange
  deriving DecidableEq, Repr

/-- One access on the register bus, before the block has looked at it (20_memory R55, 30_encoding R82). -/
structure BusAccess where
  /-- The bus address of its first byte. -/
  addr : Nat
  /-- Its width in bytes. -/
  bytes : Nat
  isWrite : Bool
  /-- The write data; no meaning for a read. -/
  data : Word32
  deriving DecidableEq, Repr

/-- One thing the world outside does to the block, or the engine's turn (42_host_interface R180). Log 1. -/
inductive Move where
  /-- A register transaction, as its command word (30_encoding R80). -/
  | command (w : CommandWord)
  /-- A register-bus access of any width at any address (20_memory R55). -/
  | busAccess (a : BusAccess)
  /-- An agent other than the engine reads one byte of system memory (70_reset_and_hazards R229). -/
  | memRead (addr : Word32)
  /-- An agent other than the engine writes one byte of system memory (70_reset_and_hazards R228). -/
  | memWrite (addr : Word32) (value : Byte)
  /-- A host reads a byte through a cached copy it did not invalidate (42_host_interface R181, duty 3). -/
  | memReadStale (addr : Word32)
  /-- A host stores a byte and does not make the store visible to the block (42_host_interface R181, duty 1). -/
  | memWriteUnseen (addr : Word32)
  /-- The platform drives the reset input: asserted or released (70_reset_and_hazards R220). -/
  | resetInput (asserted : Bool)
  /-- The engine's turn: its completion step, if it is Busy (41_sample R149, R150; 40_register_access R125). -/
  | engine
  deriving DecidableEq, Repr

/-- What a move is answered. -/
inductive Response where
  /-- Nothing: a register write returns no data (30_encoding R81). -/
  | none
  /-- The 32-bit response word of a register read (30_encoding R81). -/
  | word (v : Word32)
  /-- The byte a memory read returns. -/
  | byte (v : Byte)
  /-- The bus error response of the slave port (20_memory R55). -/
  | busError
  deriving DecidableEq, Repr

/-- System memory: (address, byte) pairs, addresses strictly rising, no pair whose byte is what an unlisted address
reads as (`Memory.wf`, Machine/Ops.lean). -/
abbrev Memory := List Host.Cell

/-- The block, the memory it reaches and the platform it stands in. -/
structure State where
  /-- The block's registers and hidden engine state (10_state R49). -/
  block : Block
  /-- System memory (20_memory R50). -/
  mem : Memory
  /-- The OPEN parameters (00_scope R6). -/
  platform : Platform
  /-- The level of the reset input (70_reset_and_hazards R220). -/
  rst : Bool
  /-- The MODEL's own: the moves still to come, the next one first. Log 1. -/
  agenda : List Move
  /-- The MODEL's own: what the latest move was answered. Log 3. -/
  resp : Response
  /-- The MODEL's own: how many free values have been drawn. Log 5. -/
  draws : Nat
  deriving DecidableEq, Repr

/-- Why a step stops with a fault. -/
inductive Fault where
  /-- The engine's completion, or a reset while Busy, would store at an address at or above 2^AW, which the spec says
  does not exist (20_memory R50). Raised by `complete` and `resetBlock`. Safe: StartCheck keeps every operation inside
  memory (41_sample R159), so no run from reset reaches it. Log 10. -/
  | outsideMemory
  deriving DecidableEq, Repr

/-- Why a step gives no meaning. -/
inductive Refusal where
  /-- The instruction of this mnemonic has no meaning yet. Raised by `exec`. Safe. -/
  | notModelled (mnemonic : String)
  deriving DecidableEq, Repr

/-- What a meaning, a move or a step answers. -/
abbrev Result := Host.Outcome State Fault Refusal

/-- The block right after reset (10_state R48). ENG.snap and ENG.raced are meaningless there; the empty list and false
are a DESIGN CHOICE, unsafe. Log 7. -/
def Block.reset : Block where
  ctrl := { pattern := .rggb, depth16 := false, alpha := false, ien := false }
  status := { busy := false, done := false, err := false, errcode := 0#4 }
  srcAddr := 0x00000000#32
  dstAddr := 0x00000000#32
  srcWidth := 0x00000000#32
  srcHeight := 0x00000000#32
  snap := []
  raced := false

/-- The machine right after reset (70_reset_and_hazards R220, R222): the block at the values of 10_state R48, memory
with nothing listed (log 6), a platform at BASE 0 without bus errors and devices (DESIGN CHOICE, unsafe, log 4), the
reset input released (DESIGN CHOICE, unsafe, log 8), nothing asked of the block yet (log 1). -/
def State.reset : State where
  block := Block.reset
  mem := []
  platform := { base := 0, busErrs := [], devices := [] }
  rst := false
  agenda := []
  resp := .none
  draws := 0

end Sys2Proof.Machine
end

