-- ==== Sys2Proof/Machine/PatternTable.lean ====
section
/-! DEFINITION. The PatternTable: which colour channel each position of a 2x2 block takes (41_sample R140). -/

namespace Sys2Proof.Machine

/-- The colour channels a pattern selects. Alpha is none of them (41_sample R141). -/
inductive Channel where
  | red
  | green
  | blue
  deriving DecidableEq, Repr

/-- The channel index: 0 is R, 1 is G, 2 is B (00_scope R14). -/
def Channel.index : Channel → Nat
  | .red => 0
  | .green => 1
  | .blue => 2

/-- One channel for each position of a 2x2 block, in the spec's fixed order (00_scope R13). -/
structure BlockMap where
  topLeft : Channel
  topRight : Channel
  bottomLeft : Channel
  bottomRight : Channel
  deriving DecidableEq, Repr

/-- `channel_offsets(pattern)` (41_sample R140). -/
def channelOffsets : Pattern → BlockMap
  | .rggb => ⟨.red, .green, .green, .blue⟩
  | .bggr => ⟨.blue, .green, .green, .red⟩
  | .grbg => ⟨.green, .red, .blue, .green⟩
  | .gbrg => ⟨.green, .blue, .red, .green⟩

/-- `T[p]`, for a position index p of 0 to 3 (00_scope R12, R13). -/
def BlockMap.at (t : BlockMap) : Nat → Channel
  | 0 => t.topLeft
  | 1 => t.topRight
  | 2 => t.bottomLeft
  | _ => t.bottomRight

/-- The position index of column x and row y inside its 2x2 block: `2·(y mod 2) + (x mod 2)` (00_scope R13). -/
def positionIndex (x y : Nat) : Nat := 2 * (y % 2) + x % 2

/-- The CTRL.PATTERN code of a pattern (10_state R24). -/
def Pattern.code : Pattern → BitVec 2
  | .rggb => 0b00#2
  | .bggr => 0b01#2
  | .grbg => 0b10#2
  | .gbrg => 0b11#2

/-- The pattern of a CTRL.PATTERN code; the field has no illegal value (10_state R24). -/
def Pattern.ofCode (c : BitVec 2) : Pattern :=
  if c = 0b00#2 then .rggb else if c = 0b01#2 then .bggr else if c = 0b10#2 then .grbg else .gbrg

/-- The CFA_PATTERN register: byte k holds the channel index of position k, the top left in bits 7:0
(10_state R41, 40_register_access R119). -/
def cfaPatternWord (p : Pattern) : Word32 :=
  let t := channelOffsets p
  BitVec.ofNat 8 t.bottomRight.index ++ BitVec.ofNat 8 t.bottomLeft.index
    ++ BitVec.ofNat 8 t.topRight.index ++ BitVec.ofNat 8 t.topLeft.index

end Sys2Proof.Machine
end

