-- ==== Sys2Proof/Machine/Operands.lean ====
section
/-! DEFINITION. The operands the write rules take from DATA (30_encoding R84), and the words the read rules build from
the registers' fields (40_register_access). A DATA bit no rule names is ignored (R106). -/

namespace Sys2Proof.Machine

/-- CTRL's operands: PATTERN = DATA[1:0], DEPTH16 = DATA[2], ALPHA = DATA[3], IEN = DATA[4] (30_encoding R84). -/
def ctrlOfData (data : Word32) : Ctrl where
  pattern := Pattern.ofCode (data.extractLsb' 0 2)
  depth16 := data.getLsbD 2
  alpha := data.getLsbD 3
  ien := data.getLsbD 4

/-- The bit of a STATUS write that clears DONE: DATA[1] (30_encoding R84). -/
def clearsDone (data : Word32) : Bool := data.getLsbD 1

/-- The bit of a STATUS write that clears ERR and ERRCODE: DATA[2] (30_encoding R84). -/
def clearsErr (data : Word32) : Bool := data.getLsbD 2

/-- CTRL as it reads: `zext_32({IEN, ALPHA, DEPTH16, PATTERN})` (40_register_access R100). -/
def Ctrl.word (c : Ctrl) : Word32 :=
  (BitVec.ofBool c.ien ++ BitVec.ofBool c.alpha ++ BitVec.ofBool c.depth16 ++ c.pattern.code : BitVec 5).setWidth 32

/-- STATUS as it reads: `zext_32({ERRCODE, 0b0, ERR, DONE, BUSY})` (40_register_access R102). -/
def Status.word (t : Status) : Word32 :=
  (t.errcode ++ 0b0#1 ++ BitVec.ofBool t.err ++ BitVec.ofBool t.done ++ BitVec.ofBool t.busy : BitVec 8).setWidth 32

/-- A dimension truncated to even: `v - (v mod 2)` (41_sample R143). -/
def truncEven (v : Nat) : Nat := v - v % 2

/-- OUT_WIDTH and OUT_HEIGHT as they read, from the current dimension (40_register_access R115, R117). -/
def truncEvenWord (v : Word32) : Word32 := BitVec.ofNat 32 (truncEven v.toNat)

end Sys2Proof.Machine
end

