-- ==== Sys2Proof/Machine/Flags.lean ====
section
/-! DEFINITION. The status flags, the error codes and the interrupt output: every change the rules make to STATUS
(10_state R29 to R33, R44, R45; 60_exceptions). -/

namespace Sys2Proof.Machine

/-- NONE (60_exceptions R190). -/
def codeNone : BitVec 4 := 0#4
/-- SRC_RANGE: the source region leaves the address space (60_exceptions R190). -/
def codeSrcRange : BitVec 4 := 1#4
/-- DST_RANGE: the destination region leaves the address space (60_exceptions R190). -/
def codeDstRange : BitVec 4 := 2#4
/-- OVERLAP: the regions share a byte (60_exceptions R190). -/
def codeOverlap : BitVec 4 := 3#4
/-- BUS_READ: a byte of the read set got a bus error (60_exceptions R190). -/
def codeBusRead : BitVec 4 := 4#4
/-- BUS_WRITE: a byte of the write set got a bus error (60_exceptions R190). -/
def codeBusWrite : BitVec 4 := 5#4

/-- DONE, ERR and ERRCODE cleared, as an accepted START does first (41_sample R145, 60_exceptions R196). -/
def Status.cleared (t : Status) : Status := { t with done := false, err := false, errcode := codeNone }

/-- A write of 1 to the DONE bit clears it; a write of 0 leaves it (40_register_access R103). -/
def Status.w1cDone (clear : Bool) (t : Status) : Status := if clear then { t with done := false } else t

/-- A write of 1 to the ERR bit clears it and ERRCODE; a write of 0 leaves both (40_register_access R103). -/
def Status.w1cErr (clear : Bool) (t : Status) : Status :=
  if clear then { t with err := false, errcode := codeNone } else t

/-- BUSY set: an accepted START whose checks pass (41_sample R145). -/
def Status.begun (t : Status) : Status := { t with busy := true }

/-- The end without error (41_sample R149). -/
def Status.ended (t : Status) : Status := { t with busy := false, done := true }

/-- Error entry: BUSY to 0, ERR to 1, ERRCODE to the code, nothing else (60_exceptions R195). -/
def Status.failed (code : BitVec 4) (t : Status) : Status := { t with busy := false, err := true, errcode := code }

/-- The interrupt output: `CTRL.IEN and (STATUS.DONE or STATUS.ERR)` (10_state R44). -/
def Block.irq (b : Block) : Bool := b.ctrl.ien && (b.status.done || b.status.err)

/-- ENG.phase, which equals STATUS.BUSY (10_state R43). Log 17. -/
def Block.phase (b : Block) : Phase := if b.status.busy then .busy else .idle

end Sys2Proof.Machine
end

