-- ==== Sys2Proof/Machine/Ops.lean ====
section
/-! DEFINITION. The named operations the meanings share: bytes of system memory, free bytes, the answer of a register
access, a register write that BUSY freezes, error entry and recovery, and the reset values. -/

namespace Sys2Proof.Machine

/-! ### System memory (20_memory R50) -/

/-- The byte at an address; what nothing has written reads as `Config.unlistedByte`. -/
def Memory.read : Memory → Nat → Byte
  | [], _ => Config.unlistedByte
  | (k, v) :: rest, a => if k = a then v else Memory.read rest a

/-- A memory without its entry for `a`. -/
def Memory.erase (m : Memory) (a : Nat) : Memory := m.filter fun c => c.1 != a

/-- A new entry at its place in the order of addresses. -/
def Memory.insert : Memory → Nat → Byte → Memory
  | [], a, b => [(a, b)]
  | (k, v) :: rest, a, b => if a < k then (a, b) :: (k, v) :: rest else (k, v) :: Memory.insert rest a b

/-- `MemWrite(a, 1, b)` of an access that gets no bus error (00_scope R11). -/
def Memory.write (m : Memory) (a : Nat) (b : Byte) : Memory :=
  if b = Config.unlistedByte then m.erase a else (m.erase a).insert a b

/-- The canonical form: addresses below 2^AW and strictly rising, no entry that reads as an unlisted byte does. -/
abbrev Memory.wf (m : Memory) : Prop :=
  m.Pairwise (fun c d => c.1 < d.1) ∧ ∀ c ∈ m, c.1 < Config.memorySize ∧ c.2 ≠ Config.unlistedByte

/-- "For d in [first, first + length): MemWrite(d, 1, any byte)", but where `keep` holds, which stays as it is. Byte k
is the free byte drawn at `draw + k` (41_sample R149, R150; 70_reset_and_hazards R221). Log 5. -/
def Memory.fillAny (m : Memory) (first length draw : Nat) (keep : Nat → Bool) : Memory :=
  (List.range length).foldl
    (fun m k => if keep (first + k) then m else m.write (first + k) (Config.freeByte (draw + k))) m

/-! ### Ranges and the platform's predicates -/

/-- The address lies in the range. -/
def AddrRange.contains (r : AddrRange) (a : Nat) : Bool := decide (r.first ≤ a ∧ a < r.first + r.length)

/-- The ranges share an address. -/
def AddrRange.overlaps (r q : AddrRange) : Bool :=
  decide (0 < r.length ∧ 0 < q.length ∧ r.first < q.first + q.length ∧ q.first < r.first + r.length)

/-- `BusErr(a, kind)` (00_scope R6, 20_memory R50). -/
def Platform.busErr (p : Platform) (a : Nat) (kind : AccessKind) : Bool :=
  p.busErrs.any fun e => e.kind == kind && e.range.contains a

/-- The range maps some device with side effects (20_memory R59). -/
def Platform.hasDevice (p : Platform) (r : AddrRange) : Bool := p.devices.any fun d => d.overlaps r

/-! ### Register access -/

/-- The answer to the move. -/
def State.answer (s : State) (r : Response) : State := { s with resp := r }

/-- The state with another block state, all else as it was. -/
def State.withBlock (s : State) (b : Block) : State := { s with block := b }

/-- `resp <- v`: what every register read does, and all it does (20_memory R60, 30_encoding R81). -/
def readRegister (v : Word32) (s : State) : Result := .next (s.answer (.word v))

/-- A register write that BUSY freezes: ignored while BUSY = 1 (70_reset_and_hazards R225). -/
def writeFrozen (f : Block → Block) (s : State) : Result :=
  if s.block.status.busy then .next s else .next (s.withBlock (f s.block))

/-- A write without effect: reserved words, read-only registers, CMD with DATA[0] = 0 (30_encoding R88). -/
def writeIgnored (s : State) : Result := .next s

/-! ### Error entry and recovery (60_exceptions R195, R196) -/

/-- Error entry: the shared operation by which every error of the block is taken. -/
def Block.enterError (code : BitVec 4) (b : Block) : Block := { b with status := b.status.failed code }

/-- Recovery by an accepted START: DONE, ERR and ERRCODE are cleared (41_sample R145). -/
def Block.recoverByStart (b : Block) : Block := { b with status := b.status.cleared }

/-- Recovery by a STATUS write: write 1 to clear (40_register_access R103). -/
def Block.recoverByWrite (data : Word32) (b : Block) : Block :=
  { b with status := (b.status.w1cDone (clearsDone data)).w1cErr (clearsErr data) }

end Sys2Proof.Machine
end

