-- ==== Sys2Proof/Machine/ReadAccess.lean ====
section
/-! DEFINITION. The meanings of the twelve register reads (40_register_access). A read returns a response word and
changes nothing else (20_memory R60); it is the same while BUSY. -/

namespace Sys2Proof.Machine

/-- RD_CTRL (40_register_access R100). -/
def execRdCtrl (s : State) : Result := readRegister s.block.ctrl.word s

/-- RD_STATUS (40_register_access R102). -/
def execRdStatus (s : State) : Result := readRegister s.block.status.word s

/-- RD_CMD: always 0 (40_register_access R104). -/
def execRdCmd (s : State) : Result := readRegister 0x00000000#32 s

/-- RD_SRC_ADDR (40_register_access R107). -/
def execRdSrcAddr (s : State) : Result := readRegister s.block.srcAddr s

/-- RD_DST_ADDR (40_register_access R109). -/
def execRdDstAddr (s : State) : Result := readRegister s.block.dstAddr s

/-- RD_SRC_WIDTH: the value as written, odd or even (40_register_access R111). -/
def execRdSrcWidth (s : State) : Result := readRegister s.block.srcWidth s

/-- RD_SRC_HEIGHT: the value as written (40_register_access R113). -/
def execRdSrcHeight (s : State) : Result := readRegister s.block.srcHeight s

/-- RD_OUT_WIDTH: W', from the current SRC_WIDTH (40_register_access R115). -/
def execRdOutWidth (s : State) : Result := readRegister (truncEvenWord s.block.srcWidth) s

/-- RD_OUT_HEIGHT: H', from the current SRC_HEIGHT (40_register_access R117). -/
def execRdOutHeight (s : State) : Result := readRegister (truncEvenWord s.block.srcHeight) s

/-- RD_CFA_PATTERN: the channel map of the current CTRL.PATTERN (40_register_access R119). -/
def execRdCfaPattern (s : State) : Result := readRegister (cfaPatternWord s.block.ctrl.pattern) s

/-- RD_RSVD_A: the reserved words WOFF 10 or 11 read 0 (40_register_access R121). -/
def execRdRsvdA (_woff : Woff) (s : State) : Result := readRegister 0x00000000#32 s

/-- RD_RSVD_B: the reserved words WOFF 12 to 15 read 0 (40_register_access R123). -/
def execRdRsvdB (_woff : Woff) (s : State) : Result := readRegister 0x00000000#32 s

end Sys2Proof.Machine
end

