-- ==== Sys2Proof/Machine/Sample.lean ====
section
/-! DEFINITION. The sample operation's pure part: the derived quantities, StartCheck, the snapshot, the read set and the
write set (41_sample R142 to R148). Every quantity is a natural number and nothing wraps (00_scope R7). -/

namespace Sys2Proof.Machine

/-! ### Derived quantities (41_sample R146) -/

/-- W. -/
def Block.width (b : Block) : Nat := b.srcWidth.toNat
/-- H. -/
def Block.height (b : Block) : Nat := b.srcHeight.toNat
/-- W'. -/
def Block.outWidth (b : Block) : Nat := truncEven b.width
/-- H'. -/
def Block.outHeight (b : Block) : Nat := truncEven b.height
/-- CH, the source channels of a pixel (10_state R26). -/
def Block.channels (b : Block) : Nat := if b.ctrl.alpha then 4 else 3
/-- BPS, the bytes of a source sample (10_state R25). -/
def Block.bytesPerSample (b : Block) : Nat := if b.ctrl.depth16 then 2 else 1
/-- T. -/
def Block.table (b : Block) : BlockMap := channelOffsets b.ctrl.pattern
/-- S, the source region's size in bytes. -/
def Block.srcSize (b : Block) : Nat := b.width * b.height * b.channels * b.bytesPerSample
/-- D, the destination region's size in bytes. -/
def Block.dstSize (b : Block) : Nat := b.outWidth * b.outHeight * 2

/-- The source region (00_scope R16). -/
def Block.srcRegion (b : Block) : AddrRange := ⟨b.srcAddr.toNat, b.srcSize⟩
/-- The destination region (00_scope R16), which is WS, the write set (41_sample R148). -/
def Block.dstRegion (b : Block) : AddrRange := ⟨b.dstAddr.toNat, b.dstSize⟩

/-! ### StartCheck (41_sample R147) -/

/-- The code of the first check that fails, 0 when all pass. -/
def Block.startCheck (b : Block) : BitVec 4 :=
  if 0 < b.srcSize ∧ b.srcAddr.toNat + b.srcSize > Config.memorySize then codeSrcRange
  else if 0 < b.dstSize ∧ b.dstAddr.toNat + b.dstSize > Config.memorySize then codeDstRange
  else if 0 < b.srcSize ∧ 0 < b.dstSize ∧ b.srcAddr.toNat < b.dstAddr.toNat + b.dstSize
      ∧ b.dstAddr.toNat < b.srcAddr.toNat + b.srcSize then codeOverlap
  else codeNone

/-! ### The snapshot (41_sample R148) -/

/-- One turn of the innermost loop: position index p, column x, row y. -/
structure Visit where
  p : Nat
  x : Nat
  y : Nat
  deriving DecidableEq, Repr

/-- The loop of Sample: blocks in raster order, the four positions of each in order. -/
def Block.visits (b : Block) : List Visit :=
  (List.range (b.outHeight / 2)).flatMap fun by' =>
    (List.range (b.outWidth / 2)).flatMap fun bx =>
      (List.range 4).map fun p => { p := p, x := 2 * bx + p % 2, y := 2 * by' + p / 2 }

/-- The address of channel c of source pixel (x, y): the row stride is W, not W' (41_sample R144, R148). -/
def Block.sourceAddr (b : Block) (x y c : Nat) : Nat :=
  b.srcAddr.toNat + ((y * b.width + x) * b.channels + c) * b.bytesPerSample

/-- The address a visit reads at: the channel is T[p]. -/
def Block.visitAddr (b : Block) (v : Visit) : Nat := b.sourceAddr v.x v.y (b.table.at v.p).index

/-- An 8-bit sample in the 16-bit output range: `s · 256` (41_sample R142). -/
def widen8 (s : Byte) : Sample16 := BitVec.ofNat 16 (s.toNat * 256)

/-- A 16-bit source sample: the more significant byte lies at the lower address (20_memory R51). Log 13. -/
def joinBigEndian (atLow atHigh : Byte) : Sample16 := BitVec.ofNat 16 (atLow.toNat * 256 + atHigh.toNat)

/-- The output value of the source sample at an address (41_sample R142, R148). -/
def Block.sampleAt (b : Block) (m : Memory) (a : Nat) : Sample16 :=
  if b.ctrl.depth16 then joinBigEndian (m.read a) (m.read (a + 1)) else widen8 (m.read a)

/-- `Sample(mem)`: one value for each output position, in row-major order (41_sample R148). -/
def Block.sample (b : Block) (m : Memory) : List Sample16 :=
  b.visits.foldl (fun snap v => snap.set (v.y * b.outWidth + v.x) (b.sampleAt m (b.visitAddr v)))
    (List.replicate (b.outWidth * b.outHeight) 0#16)

/-- RS, the read set: every byte address Sample reads (41_sample R148). -/
def Block.readSet (b : Block) : List Nat :=
  b.visits.flatMap fun v => (List.range b.bytesPerSample).map fun k => b.visitAddr v + k

/-- WS, the write set: every byte address of the destination region (41_sample R148). -/
def Block.writeSet (b : Block) : List Nat := (List.range b.dstSize).map fun k => b.dstAddr.toNat + k

/-! ### The grid in memory (41_sample R149, 20_memory R52) -/

/-- The address of output sample (x, y): row-major, two bytes a sample (41_sample R152). -/
def Block.gridAddr (b : Block) (x y : Nat) : Nat := b.dstAddr.toNat + 2 * (y * b.outWidth + x)

/-- A 16-bit output sample stored at d, the less significant byte at the lower address (20_memory R52). -/
def Memory.writeSample (m : Memory) (d : Nat) (v : Sample16) : Memory :=
  (m.write d (v.extractLsb' 0 8)).write (d + 1) (v.extractLsb' 8 8)

/-- The destination writes of a completion without error or hazard, row by row (41_sample R149). -/
def Block.writeGrid (b : Block) (m : Memory) : Memory :=
  (List.range b.outHeight).foldl (fun m y =>
    (List.range b.outWidth).foldl (fun m x =>
      m.writeSample (b.gridAddr x y) (b.snap.getD (y * b.outWidth + x) 0#16)) m) m

end Sys2Proof.Machine
end

