-- ==== Sys2Proof/Machine/WriteAccess.lean ====
section
/-! DEFINITION. The meanings of the thirteen register writes (40_register_access, 41_sample R145). A write returns no
data (30_encoding R81). -/

namespace Sys2Proof.Machine

/-- WR_CTRL: IEN always, the other fields while BUSY = 0 (40_register_access R101). -/
def execWrCtrl (data : Word32) (s : State) : Result :=
  let new := ctrlOfData data
  let kept := if s.block.status.busy then s.block.ctrl else new
  .next (s.withBlock { s.block with ctrl := { kept with ien := new.ien } })

/-- WR_STATUS: write 1 to clear DONE, write 1 to clear ERR with ERRCODE (40_register_access R103). -/
def execWrStatus (data : Word32) (s : State) : Result := .next (s.withBlock (s.block.recoverByWrite data))

/-- WR_CMD_START (41_sample R145): ignored while BUSY; else the status is cleared, and either the check's error is
entered or the snapshot is taken and the engine goes Busy. DATA[31:1] is ignored. -/
def execWrCmdStart (_data : Word32) (s : State) : Result :=
  if s.block.status.busy then .next s
  else
    let b := s.block.recoverByStart
    let code := b.startCheck
    if code ≠ codeNone then .next (s.withBlock (b.enterError code))
    else .next (s.withBlock { b with snap := b.sample s.mem, raced := false, status := b.status.begun })

/-- WR_CMD_NOP: a CMD write with DATA[0] = 0 (40_register_access R105). -/
def execWrCmdNop (_data : Word32) (s : State) : Result := writeIgnored s

/-- WR_SRC_ADDR: all 32 bits, ignored while BUSY (40_register_access R108). -/
def execWrSrcAddr (data : Word32) (s : State) : Result := writeFrozen (fun b => { b with srcAddr := data }) s

/-- WR_DST_ADDR: all 32 bits, ignored while BUSY (40_register_access R110). -/
def execWrDstAddr (data : Word32) (s : State) : Result := writeFrozen (fun b => { b with dstAddr := data }) s

/-- WR_SRC_WIDTH: all 32 bits, ignored while BUSY (40_register_access R112). -/
def execWrSrcWidth (data : Word32) (s : State) : Result := writeFrozen (fun b => { b with srcWidth := data }) s

/-- WR_SRC_HEIGHT: all 32 bits, ignored while BUSY (40_register_access R114). -/
def execWrSrcHeight (data : Word32) (s : State) : Result := writeFrozen (fun b => { b with srcHeight := data }) s

/-- WR_OUT_WIDTH: read-only, ignored (40_register_access R116). -/
def execWrOutWidth (_data : Word32) (s : State) : Result := writeIgnored s

/-- WR_OUT_HEIGHT: read-only, ignored (40_register_access R118). -/
def execWrOutHeight (_data : Word32) (s : State) : Result := writeIgnored s

/-- WR_CFA_PATTERN: read-only, ignored (40_register_access R120). -/
def execWrCfaPattern (_data : Word32) (s : State) : Result := writeIgnored s

/-- WR_RSVD_A: the reserved words WOFF 10 or 11 ignore writes (40_register_access R122). -/
def execWrRsvdA (_woff : Woff) (_data : Word32) (s : State) : Result := writeIgnored s

/-- WR_RSVD_B: the reserved words WOFF 12 to 15 ignore writes (40_register_access R124). -/
def execWrRsvdB (_woff : Woff) (_data : Word32) (s : State) : Result := writeIgnored s

end Sys2Proof.Machine
end

