-- ==== Sys2Proof/Machine/Dispatch.lean ====
section
/-! DEFINITION. The one dispatch: each instruction to its own meaning. -/

namespace Sys2Proof.Machine

/-- The meaning of a register transaction, as one atomic step of the block (20_memory R58). -/
def exec (i : Instr) (s : State) : Host.Outcome State Fault Refusal :=
  match i with
  | .rdCtrl => Sys2Proof.Machine.execRdCtrl s
  | .rdStatus => Sys2Proof.Machine.execRdStatus s
  | .rdCmd => Sys2Proof.Machine.execRdCmd s
  | .rdSrcAddr => Sys2Proof.Machine.execRdSrcAddr s
  | .rdDstAddr => Sys2Proof.Machine.execRdDstAddr s
  | .rdSrcWidth => Sys2Proof.Machine.execRdSrcWidth s
  | .rdSrcHeight => Sys2Proof.Machine.execRdSrcHeight s
  | .rdOutWidth => Sys2Proof.Machine.execRdOutWidth s
  | .rdOutHeight => Sys2Proof.Machine.execRdOutHeight s
  | .rdCfaPattern => Sys2Proof.Machine.execRdCfaPattern s
  | .rdRsvdA woff => Sys2Proof.Machine.execRdRsvdA woff s
  | .rdRsvdB woff => Sys2Proof.Machine.execRdRsvdB woff s
  | .wrCtrl data => Sys2Proof.Machine.execWrCtrl data s
  | .wrStatus data => Sys2Proof.Machine.execWrStatus data s
  | .wrCmdStart data => Sys2Proof.Machine.execWrCmdStart data s
  | .wrCmdNop data => Sys2Proof.Machine.execWrCmdNop data s
  | .wrSrcAddr data => Sys2Proof.Machine.execWrSrcAddr data s
  | .wrDstAddr data => Sys2Proof.Machine.execWrDstAddr data s
  | .wrSrcWidth data => Sys2Proof.Machine.execWrSrcWidth data s
  | .wrSrcHeight data => Sys2Proof.Machine.execWrSrcHeight data s
  | .wrOutWidth data => Sys2Proof.Machine.execWrOutWidth data s
  | .wrOutHeight data => Sys2Proof.Machine.execWrOutHeight data s
  | .wrCfaPattern data => Sys2Proof.Machine.execWrCfaPattern data s
  | .wrRsvdA woff data => Sys2Proof.Machine.execWrRsvdA woff data s
  | .wrRsvdB woff data => Sys2Proof.Machine.execWrRsvdB woff data s

end Sys2Proof.Machine
end

