-- ==== Sys2Proof/Machine/Engine.lean ====
section
/-! DEFINITION. The engine's two completion steps (41_sample R149 to R151) and the reset of the block
(70_reset_and_hazards R220, R221). -/

namespace Sys2Proof.Machine

/-- RE: some byte of the read set gets a bus error (41_sample R150). -/
def State.readError (s : State) : Bool := s.block.readSet.any fun a => s.platform.busErr a .read

/-- WE: some byte of the write set gets a bus error (41_sample R150). -/
def State.writeError (s : State) : Bool := s.block.writeSet.any fun a => s.platform.busErr a .write

/-- A region of the operation maps a device with side effects (20_memory R59). -/
def State.touchesDevice (s : State) : Bool :=
  s.platform.hasDevice s.block.srcRegion || s.platform.hasDevice s.block.dstRegion

/-- The write set lies inside the address space, as StartCheck has made sure (41_sample R159). Log 10. -/
abbrev Block.dstFits (b : Block) : Prop := b.dstAddr.toNat + b.dstSize ≤ Config.memorySize

/-- The code of a completion with a bus error: 4, 5, or a draw of the two when both apply (41_sample R150). Log 5. -/
def busErrorCode (readErr writeErr choice : Bool) : BitVec 4 :=
  if readErr && writeErr then (if choice then codeBusRead else codeBusWrite)
  else if readErr then codeBusRead else codeBusWrite

/-- The destination holds any value: one free byte for each byte of WS, but where `keep` holds. -/
def State.fillDestination (s : State) (keep : Nat → Bool) : State :=
  { s with
    mem := s.mem.fillAny s.block.dstAddr.toNat s.block.dstSize s.draws keep
    draws := s.draws + s.block.dstSize }

/-- Completion with a bus error (41_sample R150): the code is drawn first, then the bytes of WS. -/
def completeWithError (s : State) : State :=
  let code := busErrorCode s.readError s.writeError (Config.freeChoice s.draws)
  let filled := { s with draws := s.draws + 1 }.fillDestination fun a => s.platform.busErr a .write
  filled.withBlock (s.block.enterError code)

/-- Completion without error (41_sample R149): the grid is written, or, after the memory write hazard and for device
memory (20_memory R59, log 12), every byte of WS holds any value. -/
def completeDone (s : State) : State :=
  let written :=
    if s.block.raced || s.touchesDevice then s.fillDestination fun _ => false
    else { s with mem := s.block.writeGrid s.mem }
  written.withBlock { s.block with status := s.block.status.ended }

/-- The completion step of a Busy engine: a bus error outranks success (41_sample R151, 60_exceptions R194). -/
def complete (s : State) : Result :=
  if ¬ s.block.dstFits then .fault .outsideMemory
  else if s.readError || s.writeError then .next (completeWithError s)
  else .next (completeDone s)

/-- The engine's turn: an idle block makes no memory access and changes no state (60_exceptions R205). -/
def engineTurn (s : State) : Result := if s.block.status.busy then complete s else .next s

/-- Reset: every state element of the block at its reset value; an operation under way is abandoned and each byte of its
write set holds any value (70_reset_and_hazards R220, R221). -/
def resetBlock (s : State) : Result :=
  if s.block.status.busy then
    if ¬ s.block.dstFits then .fault .outsideMemory
    else .next ((s.fillDestination fun _ => false).withBlock Block.reset)
  else .next (s.withBlock Block.reset)

end Sys2Proof.Machine
end

