-- ==== Sys2Proof/Machine/Moves.lean ====
section
/-! DEFINITION. What each move of the world outside does (42_host_interface R180): register transactions by command
word and by bus access, memory accesses of other agents, the reset input, the engine's turn. -/

namespace Sys2Proof.Machine

/-- A register transaction. While reset is asserted register writes are ignored and reads go on
(70_reset_and_hazards R220). -/
def runCommand (w : CommandWord) (s : State) : Result :=
  if s.rst && w.isWrite then .next s else exec (decodeWord w) s

/-- A bus access that starts inside the 64-byte window at BASE; any other does not reach the block (20_memory R55).
Log 16. -/
def BusAccess.reaches (a : BusAccess) (p : Platform) : Bool :=
  decide (p.base ≤ a.addr ∧ a.addr < p.base + Config.windowSize)

/-- The access is 32 bits wide and at an offset that is a multiple of 4 (20_memory R55). -/
def BusAccess.isWord (a : BusAccess) (p : Platform) : Bool := decide (a.bytes = 4 ∧ (a.addr - p.base) % 4 = 0)

/-- The command word of a bus access at a word-aligned offset of the window: WOFF = off div 4 (30_encoding R82). -/
def BusAccess.commandWord (a : BusAccess) (p : Platform) : CommandWord :=
  let woff := BitVec.ofNat 4 ((a.addr - p.base) / 4)
  if a.isWrite then encodeWrite woff a.data else encodeRead woff

/-- A register-bus access: no effect outside the window, a bus error response for an illegal one, and the command word's
transaction for a legal one (20_memory R55, 30_encoding R82). -/
def runBusAccess (a : BusAccess) (s : State) : Result :=
  if ¬ a.reaches s.platform then .next s
  else if ¬ a.isWord s.platform then .next (s.answer .busError)
  else runCommand (a.commandWord s.platform) s

/-- The number of a byte address of system memory lies in the write set of a Busy engine. -/
def State.busyDestination (s : State) (addr : Nat) : Bool :=
  s.block.status.busy && s.block.dstRegion.contains addr

/-- The number of a byte address of system memory lies in the source region of a Busy engine. -/
def State.busySource (s : State) (addr : Nat) : Bool :=
  s.block.status.busy && s.block.srcRegion.contains addr

/-- A read that returns any byte: the memory read hazard (70_reset_and_hazards R229), or a stale cached copy
(42_host_interface R181). Log 5, log 14. -/
def readAnyByte (s : State) : State :=
  { s with draws := s.draws + 1 }.answer (.byte (Config.freeByte s.draws))

/-- Another agent reads a byte of system memory: any byte inside the write set of a Busy engine, without effect on the
operation (70_reset_and_hazards R229), else the byte. -/
def hostRead (addr : Word32) (s : State) : Result :=
  if s.busyDestination addr.toNat then .next (readAnyByte s)
  else .next (s.answer (.byte (s.mem.read addr.toNat)))

/-- Another agent writes a byte of system memory; inside the source region or the write set of a Busy engine that is the
memory write hazard (70_reset_and_hazards R228). -/
def storeByOther (addr : Nat) (value : Byte) (s : State) : State :=
  let hit := s.busySource addr || s.busyDestination addr
  { s with
    mem := s.mem.write addr value
    block := { s.block with raced := s.block.raced || hit } }

/-- Another agent writes a byte of system memory (70_reset_and_hazards R228). -/
def hostWrite (addr : Word32) (value : Byte) (s : State) : Result := .next (storeByOther addr.toNat value s)

/-- A host reads a byte through a copy it did not invalidate: any byte (42_host_interface R181, duty 3). Log 14. -/
def hostReadStale (_addr : Word32) (s : State) : Result := .next (readAnyByte s)

/-- A host stores a byte and does not make it visible: what the block finds there is any byte
(42_host_interface R181, duty 1). Log 14. -/
def hostWriteUnseen (addr : Word32) (s : State) : Result :=
  .next (storeByOther addr.toNat (Config.freeByte s.draws) { s with draws := s.draws + 1 })

/-- The platform drives the reset input. Asserting it resets the block in this step (70_reset_and_hazards R220). -/
def driveReset (asserted : Bool) (s : State) : Result :=
  if asserted then resetBlock { s with rst := true } else .next { s with rst := false }

/-- One move. -/
def runMove (m : Move) (s : State) : Result :=
  match m with
  | .command w => runCommand w s
  | .busAccess a => runBusAccess a s
  | .memRead addr => hostRead addr s
  | .memWrite addr value => hostWrite addr value s
  | .memReadStale addr => hostReadStale addr s
  | .memWriteUnseen addr => hostWriteUnseen addr s
  | .resetInput asserted => driveReset asserted s
  | .engine => engineTurn s

/-- While reset is asserted the block stays at its reset values, whatever else happens in the step
(70_reset_and_hazards R220, 60_exceptions R194). Log 9. -/
def State.heldInReset (s : State) : State := if s.rst then s.withBlock Block.reset else s

/-- The next move of the agenda, with no answer yet; a Busy engine completes when nothing else is to come, and an idle
block then stays as it is (70_reset_and_hazards R232, 60_exceptions R205). Log 2. -/
def nextMove (s : State) : Result :=
  match s.agenda with
  | [] => if s.block.status.busy then complete (s.answer .none) else .next s
  | m :: rest => runMove m ({ s with agenda := rest }.answer .none)

/-- A register transaction put before all other moves, the reset input released, so that the next step runs it: the low
37 of the `nbits` bits of `w` (30_encoding R80). Log 1, log 11. -/
def State.withCommandFirst (s : State) (nbits w : Nat) : State :=
  { s with rst := false, agenda := .command (BitVec.ofNat 37 (w % 2 ^ nbits)) :: s.agenda }

end Sys2Proof.Machine
end

