-- ==== Sys2Proof/Machine/Step.lean ====
section
/-! DEFINITION. One step of the machine: one move, as one indivisible event (20_memory R58, 40_register_access R125). -/

namespace Sys2Proof.Machine

/-- The next state, after the next move of the agenda or the completion of a Busy engine. -/
def step (s : State) : Host.Outcome State Fault Refusal := nextMove s.heldInReset

/-- The state in which the very next step runs the transaction of the word `w`. Log 1. -/
def State.withFetchWord (s : State) (nbits w : Nat) : State := s.withCommandFirst nbits w

end Sys2Proof.Machine
end

