-- ==== Sys2Proof/Machine/Driver.lean ====
section
/-! DEFINITION. The host's side as the spec gives it: the driver's parse and display (42_host_interface R182, R183), its
errors before the block (R184), the command sequence of an operation (70_reset_and_hazards R224), what the block hands to
the encoder (R185), and the assembler's statements and pseudo-instructions (30_encoding R90, R91). The block calls none
of this. -/

namespace Sys2Proof.Machine

/-! ### Pattern names (42_host_interface R182, R183) -/

/-- The errors the driver raises before the block (42_host_interface R182, R184). -/
inductive DriverError where
  | invalidPatternString
  | unsupportedColorType
  | unsupportedBitDepth
  | inputOpenError
  | inputDecodeError
  | frameDecodeError
  deriving DecidableEq, Repr

/-- ASCII white space: 0x09 to 0x0D and 0x20 (42_host_interface R182). -/
def isDriverSpace (c : Char) : Bool := (0x09 ≤ c.toNat && c.toNat ≤ 0x0D) || c.toNat == 0x20

/-- Leading and trailing white space removed (42_host_interface R182, step 1). -/
def trimSpace (name : List Char) : List Char :=
  ((name.dropWhile isDriverSpace).reverse.dropWhile isDriverSpace).reverse

/-- An ASCII letter in upper case, any other character as it is (42_host_interface R182, step 2). -/
def upperAscii (c : Char) : Char :=
  if 0x61 ≤ c.toNat ∧ c.toNat ≤ 0x7A then Char.ofNat (c.toNat - 0x20) else c

/-- The four names and their patterns (42_host_interface R183). -/
def displayName : Pattern → List Char
  | .rggb => ['R', 'G', 'G', 'B']
  | .bggr => ['B', 'G', 'G', 'R']
  | .grbg => ['G', 'R', 'B', 'G']
  | .gbrg => ['G', 'B', 'R', 'G']

/-- `display(code)` (42_host_interface R183). -/
def displayPattern (code : BitVec 2) : List Char := displayName (Pattern.ofCode code)

/-- `parse(name)`: the CTRL.PATTERN code or InvalidPatternString (42_host_interface R182). -/
def parsePattern (name : List Char) : Except DriverError (BitVec 2) :=
  let folded := (trimSpace name).map upperAscii
  if folded = displayName .rggb then .ok Pattern.rggb.code
  else if folded = displayName .bggr then .ok Pattern.bggr.code
  else if folded = displayName .grbg then .ok Pattern.grbg.code
  else if folded = displayName .gbrg then .ok Pattern.gbrg.code
  else .error .invalidPatternString

/-! ### The assembler (30_encoding R90, R91) -/

/-- The register names of the syntax; `rsvd n` is the reserved word 10 + n, n of 0 to 5 (30_encoding R90). -/
inductive RegName where
  | ctrl
  | status
  | cmd
  | srcAddr
  | dstAddr
  | srcWidth
  | srcHeight
  | outWidth
  | outHeight
  | cfaPattern
  | rsvd (n : Fin 6)
  deriving DecidableEq, Repr

/-- The word offset of a register (10_state R22, 30_encoding R82). -/
def RegName.woff : RegName → Woff
  | .ctrl => 0#4
  | .status => 1#4
  | .cmd => 2#4
  | .srcAddr => 3#4
  | .dstAddr => 4#4
  | .srcWidth => 5#4
  | .srcHeight => 6#4
  | .outWidth => 7#4
  | .outHeight => 8#4
  | .cfaPattern => 9#4
  | .rsvd n => BitVec.ofNat 4 (10 + n.val)

/-- `RD <reg>` (30_encoding R90): DATA = 0. -/
def asmRead (r : RegName) : CommandWord := encodeRead r.woff

/-- `WR <reg>, <imm>` (30_encoding R90). -/
def asmWrite (r : RegName) (imm : Word32) : CommandWord := encodeWrite r.woff imm

/-- `START` (30_encoding R91). -/
def asmStart : CommandWord := asmWrite .cmd 0x00000001#32

/-- `CLEAR` (30_encoding R91). -/
def asmClear : CommandWord := asmWrite .status 0x00000006#32

/-- `CONFIG <pat>, <d16>, <alpha>, <ien>`: `WR CTRL, pat + 4·d16 + 8·alpha + 16·ien` (30_encoding R91). -/
def asmConfig (pat : BitVec 2) (d16 alpha ien : Bool) : CommandWord :=
  asmWrite .ctrl (BitVec.ofNat 32 (pat.toNat + 4 * d16.toNat + 8 * alpha.toNat + 16 * ien.toNat))

/-- `POLL <reg>, <mask>, <value>` of which the host makes n iterations: one `RD <reg>` each. The number is the host's
control flow and open (30_encoding R91, 70_reset_and_hazards R233). -/
def asmPoll (r : RegName) (n : Nat) : List Move := List.replicate n (.command (asmRead r))

/-- POLL ends on this response: `(response AND mask) = value` (30_encoding R91). -/
def pollEnds (response mask value : Word32) : Bool := response &&& mask == value

/-- `WAIT` of which the host makes n iterations: those of `POLL STATUS` (30_encoding R91). -/
def asmWait (n : Nat) : List Move := asmPoll .status n

/-- `WAIT` is `POLL STATUS, 0x00000001, 0x00000000` (30_encoding R91): it ends on this response. -/
def waitEnds (response : Word32) : Bool := pollEnds response 0x00000001#32 0x00000000#32

/-- `MEM <addr>: <b0> <b1> ...`: the bytes at consecutive addresses (30_encoding R90). -/
def asmMem (addr : Word32) (bytes : List Byte) : List Move :=
  bytes.zipIdx.map fun b => .memWrite (addr + BitVec.ofNat 32 b.2) b.1

/-! ### The driver's operation (42_host_interface R184, 70_reset_and_hazards R224) -/

/-- A PixelBuffer, before it is known to be one the block takes (00_scope R15). -/
structure DecodedImage where
  width : Word32
  height : Word32
  channels : Nat
  bitDepth : Nat
  samples : List Byte
  deriving DecidableEq, Repr

/-- Where the host puts the operation's regions, and whether it waits by interrupt. -/
structure Placement where
  srcAddr : Word32
  dstAddr : Word32
  ien : Bool
  deriving DecidableEq, Repr

/-- The checks on the buffer: RGB or RGBA, 8 or 16 bits (42_host_interface R184). A buffer whose `samples` are not
W·H·CH·BPS bytes passes and is launched with the bytes it has: the invariant of 00_scope R15 is the decoder's to keep, and
R184 names no error for its breach. DESIGN CHOICE, log 22. -/
def checkImage (img : DecodedImage) : Except DriverError (Bool × Bool) :=
  if img.channels ≠ 3 ∧ img.channels ≠ 4 then .error .unsupportedColorType
  else if img.bitDepth ≠ 8 ∧ img.bitDepth ≠ 16 then .error .unsupportedBitDepth
  else .ok (img.bitDepth == 16, img.channels == 4)

/-- Steps 2 to 4 of an operation: the source bytes, the configuration, START (70_reset_and_hazards R224). -/
def launchMoves (img : DecodedImage) (pat : BitVec 2) (d16 alpha : Bool) (p : Placement) : List Move :=
  asmMem p.srcAddr img.samples ++
    [ .command (asmConfig pat d16 alpha p.ien),
      .command (asmWrite .srcAddr p.srcAddr),
      .command (asmWrite .dstAddr p.dstAddr),
      .command (asmWrite .srcWidth img.width),
      .command (asmWrite .srcHeight img.height),
      .command asmStart ]

/-- What the driver sends to the block: nothing for a failed input, whatever stage found the failure
(42_host_interface R184). -/
def driverLaunch (name : List Char) (decoded : Except DriverError DecodedImage) (p : Placement) :
    Except DriverError (List Move) :=
  match parsePattern name with
  | .error e => .error e
  | .ok pat =>
    match decoded with
    | .error e => .error e
    | .ok img =>
      match checkImage img with
      | .error e => .error e
      | .ok (d16, alpha) => .ok (launchMoves img pat d16 alpha p)

/-! ### What the block hands to the encoder (42_host_interface R185) -/

/-- The fields the block supplies. -/
structure EncoderInputs where
  imageWidth : Nat
  imageLength : Nat
  rowsPerStrip : Nat
  stripByteCounts : Nat
  bitsPerSample : Nat
  /-- CFAPattern2: the bytes of CFA_PATTERN, least significant first. -/
  cfaPattern2 : List Byte
  /-- The pixel strip: the bytes of the destination region. -/
  strip : List Byte
  deriving DecidableEq, Repr

/-- The encoder's inputs, as the host reads them after DONE (42_host_interface R185). -/
def encoderInputs (s : State) : EncoderInputs :=
  let ow := (truncEvenWord s.block.srcWidth).toNat
  let oh := (truncEvenWord s.block.srcHeight).toNat
  let cfa := cfaPatternWord s.block.ctrl.pattern
  { imageWidth := ow
    imageLength := oh
    rowsPerStrip := oh
    stripByteCounts := ow * oh * 2
    bitsPerSample := 16
    cfaPattern2 := (List.range 4).map fun k => cfa.extractLsb' (8 * k) 8
    strip := s.block.writeSet.map s.mem.read }

end Sys2Proof.Machine
end

