-- ==== Sys2Proof/Safety.lean ====
section
/-! DEFINITION. What claims speak of: the states a run can be in, the end of an operation, and the premises of a claim
about one operation (10_state R33, 42_host_interface R186, R187). -/

namespace Sys2Proof.Machine

/-- The invariants of STATUS (10_state R33), and no reserved error code (60_exceptions R190). -/
abbrev Status.Legal (t : Status) : Prop :=
  (t.busy = true → t.done = false ∧ t.err = false) ∧ (t.done = true → t.err = false) ∧
    (t.err = false ↔ t.errcode = codeNone) ∧ t.errcode.toNat ≤ 5

/-- A Busy engine runs an operation whose checks passed, with one sample for each output position
(10_state R29, 41_sample R145, R148). -/
abbrev Block.OperationSound (b : Block) : Prop :=
  b.status.busy = true → b.startCheck = codeNone ∧ b.snap.length = b.outWidth * b.outHeight

/-- The invariant of the machine. Every step keeps it, and reset has it. -/
abbrev State.Inv (s : State) : Prop :=
  s.mem.wf ∧ s.block.status.Legal ∧ s.block.OperationSound ∧ (s.rst = true → s.block = Block.reset)

/-- While no memory write hazard has happened, the snapshot of a Busy engine is what Sample would compute from memory as
it stands now (00_scope R18, 70_reset_and_hazards R228). -/
abbrev State.SnapshotCurrent (s : State) : Prop :=
  s.block.status.busy = true → s.block.raced = false → s.block.snap = s.block.sample s.mem

/-- No byte of RS gets a read error, none of WS a write error (42_host_interface R187, premise 3). -/
def State.NoBusError (s : State) : Prop :=
  (∀ a ∈ s.block.readSet, s.platform.busErr a .read = false) ∧
    ∀ a ∈ s.block.writeSet, s.platform.busErr a .write = false

/-- The move is a START: its command word, or the 32-bit write of a value with bit 0 set to CMD, byte offset 8 of the
window (10_state R34, 30_encoding R82, R84). -/
def Move.IsStart (p : Platform) (m : Move) : Prop :=
  (∃ (w : CommandWord) (data : Word32), m = .command w ∧ decodeWord w = .wrCmdStart data) ∨
    ∃ data : Word32, Word32.isStart data = true ∧ m = .busAccess ⟨p.base + 8, 4, true, data⟩

/-- The move keeps duty 2 of 42_host_interface R181 for the operation of block `b`, and is no reset
(42_host_interface R187, premises 4 and 5): no write to the source region or the destination region, no read of the
destination region, no access without the cache duties. Register transactions are the host's liberty (R180). -/
def Move.Dutiful (b : Block) : Move → Prop
  | .command _ => True
  | .busAccess _ => True
  | .memRead addr => b.dstRegion.contains addr.toNat = false
  | .memWrite addr _ => b.srcRegion.contains addr.toNat = false ∧ b.dstRegion.contains addr.toNat = false
  | .memReadStale _ => False
  | .memWriteUnseen _ => False
  | .resetInput asserted => asserted = false
  | .engine => True

/-- `out(x, y)`, the closed form of an output value: the selected channel's source sample, big-endian at 16 bits, in the
high byte at 8 bits (41_sample R153, R142, R144; 20_memory R51). Written apart from the loop of `Block.sample`. -/
def Block.closedForm (b : Block) (m : Memory) (x y : Nat) : Sample16 :=
  let c := ((channelOffsets b.ctrl.pattern).at (2 * (y % 2) + x % 2)).index
  let a := b.srcAddr.toNat + ((y * b.srcWidth.toNat + x) * (if b.ctrl.alpha then 4 else 3) + c)
    * (if b.ctrl.depth16 then 2 else 1)
  if b.ctrl.depth16 then m.read a ++ m.read (a + 1) else m.read a ++ 0x00#8

/-- The destination region holds the closed form of the source bytes of `m`, each value little-endian at its place in
row-major order (41_sample R152, R153; 20_memory R52). -/
def Block.HoldsResult (b : Block) (m result : Memory) : Prop :=
  ∀ x y, x < b.outWidth → y < b.outHeight →
    result.read (b.dstAddr.toNat + 2 * (y * b.outWidth + x)) = (b.closedForm m x y).extractLsb' 0 8 ∧
      result.read (b.dstAddr.toNat + 2 * (y * b.outWidth + x) + 1) = (b.closedForm m x y).extractLsb' 8 8

/-- Every byte outside the destination region of the block is the same in both memories. -/
def Block.KeepsOutside (b : Block) (before after : Memory) : Prop :=
  ∀ a, ¬ (b.dstAddr.toNat ≤ a ∧ a < b.dstAddr.toNat + b.dstSize) → after.read a = before.read a

/-- `run k s`: k steps of the machine. -/
def run (k : Nat) (s : State) : Result := Host.Core.run Sys2Proof.core k s

/-- The two blocks configure the same operation: all of the configuration but the interrupt enable. -/
def Block.SameConfig (b c : Block) : Prop :=
  b.ctrl.pattern = c.ctrl.pattern ∧ b.ctrl.depth16 = c.ctrl.depth16 ∧ b.ctrl.alpha = c.ctrl.alpha ∧
    b.srcAddr = c.srcAddr ∧ b.dstAddr = c.dstAddr ∧ b.srcWidth = c.srcWidth ∧ b.srcHeight = c.srcHeight

end Sys2Proof.Machine
end

