-- ==== Sys2Proof/Certificates/Slice0/Obligations.lean ====
section
/-! DEFINITION. The statements for the provers, each from rules of spec/. -/

open Sys2Proof Sys2Proof.Machine

/-! ## Encoding -/

/-- Decoding what the encoder writes gives the instruction back, for every well-formed instruction and every operand
value (30_encoding R80, R85). -/
def Obligations.DecodeOfEncode : Prop :=
  ∀ i : Instr, i.WellFormed → decodeWord (encode i) = i

/-- Every command word decodes to a well-formed instruction whose encoding is the word, with DATA canonically 0 for a
read (30_encoding R80, R83, R87). -/
def Obligations.EncodeOfDecode : Prop :=
  ∀ w : CommandWord, (decodeWord w).WellFormed ∧
    encode (decodeWord w) = if w.isWrite then w else w &&& 0x1F00000000#37

/-- Every command word matches exactly one row of the opcode table, and it is the row of the decoded instruction
(30_encoding R85). -/
def Obligations.EachWordMatchesExactlyItsRow : Prop :=
  ∀ w : CommandWord,
    (opcodeTable.filter fun r => r.selects w).map OpcodeRow.mnemonic = [(decodeWord w).mnemonic]

/-- Two read words that differ only in DATA have the same meaning, and a write's DATA is taken as given, without
extension, scale or shift, by the instruction of its word offset (30_encoding R83). -/
def Obligations.ReadIgnoresDataWriteTakesIt : Prop :=
  (∀ w v : CommandWord, w.isWrite = false → v.isWrite = false → w.woff = v.woff → decodeWord w = decodeWord v) ∧
  (∀ w : CommandWord, w.isWrite = true → (encode (decodeWord w)).data = w.data ∧ (encode (decodeWord w)).woff = w.woff)

/-- Words written out from the encoding decode to their instructions (30_encoding R80, R85, R92). -/
def Obligations.SpecWordsDecode : Prop :=
  decodeWord 0x100000000D#37 = .wrCtrl 0x0000000D#32 ∧ decodeWord 0x1200000001#37 = .wrCmdStart 0x00000001#32 ∧
  decodeWord 0x0100000000#37 = .rdStatus ∧ decodeWord 0x1200000002#37 = .wrCmdNop 0x00000002#32 ∧
  decodeWord 0x1300001001#37 = .wrSrcAddr 0x00001001#32 ∧ decodeWord 0x0900000000#37 = .rdCfaPattern ∧
  decodeWord 0x1BFFFFFFFF#37 = .wrRsvdA 11#4 0xFFFFFFFF#32 ∧ decodeWord 0x0F00000000#37 = .rdRsvdB 15#4

/-! ## Steps and the register bus -/

/-- When the next move is a transaction whose word decodes to a well-formed instruction, the step is that instruction's
meaning, on the state with the move taken from the agenda and no answer yet (20_memory R58, R66).
That the moves to come stand in `agenda`, and what `withFetchWord` sets, is the model's choice (log 1). -/
def Obligations.StepRunsDecodedTransaction : Prop :=
  (∀ (s : State) (w : CommandWord) (i : Instr) (rest : List Move),
    s.rst = false → s.agenda = .command w :: rest → decodeWord w = i → i.WellFormed →
      step s = exec i { s with agenda := rest, resp := .none }) ∧
  (∀ (s : State) (nbits w : Nat),
    step (s.withFetchWord nbits w) =
      exec (decodeWord (BitVec.ofNat 37 (w % 2 ^ nbits))) { s with rst := false, resp := .none })

/-- A bus access: outside the 64-byte window it does not reach the block; inside it, any width but 32 bits and any offset
that is no multiple of 4 gets the bus error response and changes nothing; a legal one is the transaction of the command
word with WOFF = off div 4 (20_memory R55, 30_encoding R82).
That an access reaches the window when its first byte does is the model's choice (log 16). -/
def Obligations.BusAccessRule : Prop :=
  ∀ (s : State) (a : BusAccess) (rest : List Move),
    s.rst = false → s.agenda = .busAccess a :: rest →
      ((a.addr < s.platform.base ∨ s.platform.base + 64 ≤ a.addr) →
        step s = .next { s with agenda := rest, resp := .none }) ∧
      (s.platform.base ≤ a.addr → a.addr < s.platform.base + 64 →
        (a.bytes ≠ 4 ∨ (a.addr - s.platform.base) % 4 ≠ 0) →
        step s = .next { s with agenda := rest, resp := .busError }) ∧
      (s.platform.base ≤ a.addr → a.addr < s.platform.base + 64 →
        a.bytes = 4 → (a.addr - s.platform.base) % 4 = 0 →
        ∃ w : CommandWord, w.isWrite = a.isWrite ∧ w.woff.toNat = (a.addr - s.platform.base) / 4 ∧
          (a.isWrite = true → w.data = a.data) ∧
          step s = exec (decodeWord w) { s with agenda := rest, resp := .none })

/-- While reset is asserted register writes are ignored, and reads return the reset values: by command word, and by a
legal bus access, whose word has WOFF = off div 4; an illegal bus access inside the window gets the bus error response,
and one outside does not reach the block (70_reset_and_hazards R220; 20_memory R55; 30_encoding R82).
That the block stands at its reset values in every step under reset, and that bus error responses go on there, is the
model's reading (log 9); that an access reaches the window when its first byte does is its choice (log 16). -/
def Obligations.TransactionsUnderReset : Prop :=
  ∀ (s : State) (rest : List Move), s.rst = true →
    (∀ w : CommandWord, s.agenda = .command w :: rest →
      (w.isWrite = true → step s = .next { s with block := Block.reset, agenda := rest, resp := .none }) ∧
      (w.isWrite = false → ∃ v, exec (decodeWord w) State.reset = .next { State.reset with resp := .word v } ∧
        step s = .next { s with block := Block.reset, agenda := rest, resp := .word v })) ∧
    (∀ a : BusAccess, s.agenda = .busAccess a :: rest →
      ((a.addr < s.platform.base ∨ s.platform.base + 64 ≤ a.addr) →
        step s = .next { s with block := Block.reset, agenda := rest, resp := .none }) ∧
      (s.platform.base ≤ a.addr → a.addr < s.platform.base + 64 →
        (a.bytes ≠ 4 ∨ (a.addr - s.platform.base) % 4 ≠ 0) →
        step s = .next { s with block := Block.reset, agenda := rest, resp := .busError }) ∧
      (s.platform.base ≤ a.addr → a.addr < s.platform.base + 64 →
        a.bytes = 4 → (a.addr - s.platform.base) % 4 = 0 →
        (a.isWrite = true → step s = .next { s with block := Block.reset, agenda := rest, resp := .none }) ∧
        (a.isWrite = false → ∃ (w : CommandWord) (v : Word32),
          w.isWrite = false ∧ w.woff.toNat = (a.addr - s.platform.base) / 4 ∧
          exec (decodeWord w) State.reset = .next { State.reset with resp := .word v } ∧
          step s = .next { s with block := Block.reset, agenda := rest, resp := .word v })))

/-! ## Register reads -/

/-- RD_SRC_ADDR, RD_DST_ADDR, RD_SRC_WIDTH and RD_SRC_HEIGHT return the register and change nothing else
(40_register_access R107, R109, R111, R113; 20_memory R60). -/
def Obligations.ConfigurationReads : Prop :=
  ∀ s : State,
    exec .rdSrcAddr s = .next { s with resp := .word s.block.srcAddr } ∧
    exec .rdDstAddr s = .next { s with resp := .word s.block.dstAddr } ∧
    exec .rdSrcWidth s = .next { s with resp := .word s.block.srcWidth } ∧
    exec .rdSrcHeight s = .next { s with resp := .word s.block.srcHeight }

/-- RD_CTRL returns IEN, ALPHA, DEPTH16 and PATTERN in bits 4 to 0 and 0 above, and changes nothing else
(40_register_access R100, 10_state R23, R24, R28). -/
def Obligations.CtrlRead : Prop :=
  ∀ s : State, ∃ v : Word32, exec .rdCtrl s = .next { s with resp := .word v } ∧
    (v.extractLsb' 0 2 = match s.block.ctrl.pattern with
      | .rggb => 0b00#2 | .bggr => 0b01#2 | .grbg => 0b10#2 | .gbrg => 0b11#2) ∧
    v.getLsbD 2 = s.block.ctrl.depth16 ∧ v.getLsbD 3 = s.block.ctrl.alpha ∧ v.getLsbD 4 = s.block.ctrl.ien ∧
    v.extractLsb' 5 27 = 0#27

/-- RD_STATUS returns BUSY, DONE and ERR in bits 0 to 2, ERRCODE in bits 7:4 and 0 elsewhere, and clears nothing
(40_register_access R102, 10_state R29 to R33). -/
def Obligations.StatusRead : Prop :=
  ∀ s : State, ∃ v : Word32, exec .rdStatus s = .next { s with resp := .word v } ∧
    v.getLsbD 0 = s.block.status.busy ∧ v.getLsbD 1 = s.block.status.done ∧ v.getLsbD 2 = s.block.status.err ∧
    v.getLsbD 3 = false ∧ v.extractLsb' 4 4 = s.block.status.errcode ∧ v.extractLsb' 8 24 = 0#24

/-- RD_CMD, RD_RSVD_A and RD_RSVD_B read 0 and change nothing else (40_register_access R104, R121, R123). -/
def Obligations.ReadsOfZero : Prop :=
  ∀ (s : State) (woff : Woff),
    exec .rdCmd s = .next { s with resp := .word 0x00000000#32 } ∧
    exec (.rdRsvdA woff) s = .next { s with resp := .word 0x00000000#32 } ∧
    exec (.rdRsvdB woff) s = .next { s with resp := .word 0x00000000#32 }

/-- OUT_WIDTH reads as SRC_WIDTH[31:1] over a 0 bit, that is W - (W mod 2), and OUT_HEIGHT likewise; nothing else changes
(10_state R39, R40; 40_register_access R115, R117). -/
def Obligations.OutputDimensionReads : Prop :=
  ∀ s : State, ∃ w h : Word32,
    exec .rdOutWidth s = .next { s with resp := .word w } ∧ exec .rdOutHeight s = .next { s with resp := .word h } ∧
    w = s.block.srcWidth.extractLsb' 1 31 ++ 0b0#1 ∧ h = s.block.srcHeight.extractLsb' 1 31 ++ 0b0#1 ∧
    w.toNat = s.block.srcWidth.toNat - s.block.srcWidth.toNat % 2 ∧
    h.toNat = s.block.srcHeight.toNat - s.block.srcHeight.toNat % 2

/-- CFA_PATTERN reads the pattern's four channel indices, the top left in the lowest byte (10_state R41,
40_register_access R119). -/
def Obligations.CfaPatternRead : Prop :=
  ∀ s : State, exec .rdCfaPattern s = .next { s with
    resp := .word (match s.block.ctrl.pattern with
      | .rggb => 0x02010100#32 | .bggr => 0x00010102#32 | .grbg => 0x01020001#32 | .gbrg => 0x01000201#32) }

/-! ## Register writes -/

/-- WR_CTRL sets IEN at any time and the other fields only while BUSY = 0, ignores DATA[31:5], and `irq` follows the new
IEN in the same step; nothing else changes (40_register_access R101). -/
def Obligations.CtrlWrite : Prop :=
  ∀ (s : State) (data : Word32), ∃ c : Ctrl,
    exec (.wrCtrl data) s = .next { s with block := { s.block with ctrl := c } } ∧
    c.ien = data.getLsbD 4 ∧
    (s.block.status.busy = true → c.pattern = s.block.ctrl.pattern ∧ c.depth16 = s.block.ctrl.depth16 ∧
      c.alpha = s.block.ctrl.alpha) ∧
    (s.block.status.busy = false → c.depth16 = data.getLsbD 2 ∧ c.alpha = data.getLsbD 3 ∧
      c.pattern = (if data.extractLsb' 0 2 = 0b00#2 then .rggb else if data.extractLsb' 0 2 = 0b01#2 then .bggr
        else if data.extractLsb' 0 2 = 0b10#2 then .grbg else .gbrg)) ∧
    ({ s.block with ctrl := c } : Block).irq =
      (data.getLsbD 4 && (s.block.status.done || s.block.status.err))

/-- What an idle block reads back from CTRL is the written value with its reserved bits 31:5 cleared
(10_state R28, 40_register_access R100, R106). -/
def Obligations.CtrlReadsBackWritten : Prop :=
  ∀ (s : State) (data : Word32), s.block.status.busy = false →
    ∃ t u : State, exec (.wrCtrl data) s = .next t ∧ exec .rdCtrl t = .next u ∧
      u.resp = .word (data &&& 0x0000001F#32)

/-- WR_STATUS clears DONE where DATA[1] = 1, and ERR with ERRCODE where DATA[2] = 1; every other DATA bit is ignored,
BUSY stays, nothing else changes (40_register_access R103). -/
def Obligations.StatusWriteOneToClear : Prop :=
  ∀ (s : State) (data : Word32), exec (.wrStatus data) s = .next { s with block := { s.block with
    status := {
      busy := s.block.status.busy
      done := s.block.status.done && !data.getLsbD 1
      err := s.block.status.err && !data.getLsbD 2
      errcode := if data.getLsbD 2 then 0#4 else s.block.status.errcode } } }

/-- WR_SRC_ADDR, WR_DST_ADDR, WR_SRC_WIDTH and WR_SRC_HEIGHT store all 32 bits while BUSY = 0 and are ignored while
BUSY = 1; nothing else changes (40_register_access R108, R110, R112, R114). -/
def Obligations.ConfigurationWrites : Prop :=
  ∀ (s : State) (data : Word32),
    (s.block.status.busy = false →
      exec (.wrSrcAddr data) s = .next { s with block := { s.block with srcAddr := data } } ∧
      exec (.wrDstAddr data) s = .next { s with block := { s.block with dstAddr := data } } ∧
      exec (.wrSrcWidth data) s = .next { s with block := { s.block with srcWidth := data } } ∧
      exec (.wrSrcHeight data) s = .next { s with block := { s.block with srcHeight := data } }) ∧
    (s.block.status.busy = true →
      exec (.wrSrcAddr data) s = .next s ∧ exec (.wrDstAddr data) s = .next s ∧
      exec (.wrSrcWidth data) s = .next s ∧ exec (.wrSrcHeight data) s = .next s)

/-- WR_CMD_NOP and the writes to read-only registers and reserved words change nothing
(40_register_access R105, R116, R118, R120, R122, R124). -/
def Obligations.WritesWithoutEffect : Prop :=
  ∀ (s : State) (woff : Woff) (data : Word32),
    exec (.wrCmdNop data) s = .next s ∧ exec (.wrOutWidth data) s = .next s ∧
    exec (.wrOutHeight data) s = .next s ∧ exec (.wrCfaPattern data) s = .next s ∧
    exec (.wrRsvdA woff data) s = .next s ∧ exec (.wrRsvdB woff data) s = .next s

/-! ## START -/

/-- START while BUSY = 1 is ignored: no state changes (41_sample R145, 70_reset_and_hazards R227). -/
def Obligations.StartWhileBusyIgnored : Prop :=
  ∀ (s : State) (data : Word32), s.block.status.busy = true → exec (.wrCmdStart data) s = .next s

/-- An accepted START whose check fails clears DONE, enters the error with the check's code and changes nothing else; no
memory is touched and the configuration keeps its values (41_sample R145, 60_exceptions R195). -/
def Obligations.StartRejected : Prop :=
  ∀ (s : State) (data : Word32), s.block.status.busy = false → s.block.startCheck ≠ 0#4 →
    exec (.wrCmdStart data) s = .next { s with block := { s.block with
      status := { busy := false, done := false, err := true, errcode := s.block.startCheck } } }

/-- An accepted START whose checks pass clears DONE, ERR and ERRCODE, takes the snapshot of memory as it stands, clears
ENG.raced and sets BUSY; nothing else changes, no byte of memory either (41_sample R145, R148). -/
def Obligations.StartAccepted : Prop :=
  ∀ (s : State) (data : Word32), s.block.status.busy = false → s.block.startCheck = 0#4 →
    exec (.wrCmdStart data) s = .next { s with block := { s.block with
      snap := s.block.sample s.mem
      raced := false
      status := { busy := true, done := false, err := false, errcode := 0#4 } } }

/-- StartCheck: the first of source range, destination range and overlap that fails gives the code, on natural numbers
that do not wrap; an empty region passes (41_sample R146, R147). -/
def Obligations.StartCheckCodes : Prop :=
  ∀ b : Block,
    let W := b.srcWidth.toNat
    let H := b.srcHeight.toNat
    let S := W * H * (if b.ctrl.alpha then 4 else 3) * (if b.ctrl.depth16 then 2 else 1)
    let D := (W - W % 2) * (H - H % 2) * 2
    let src := b.srcAddr.toNat
    let dst := b.dstAddr.toNat
    let srcRange := 0 < S ∧ src + S > 2 ^ 32
    let dstRange := 0 < D ∧ dst + D > 2 ^ 32
    let overlap := ∃ a, (src ≤ a ∧ a < src + S) ∧ (dst ≤ a ∧ a < dst + D)
    (b.startCheck = 1#4 ↔ srcRange) ∧
    (b.startCheck = 2#4 ↔ ¬ srcRange ∧ dstRange) ∧
    (b.startCheck = 3#4 ↔ ¬ srcRange ∧ ¬ dstRange ∧ overlap) ∧
    (b.startCheck = 0#4 ↔ ¬ srcRange ∧ ¬ dstRange ∧ ¬ overlap)

/-! ## The sample operation -/

/-- The pattern table: each row is an arrangement of one R, two G and one B, with the two G on one diagonal
(41_sample R140, R141). -/
def Obligations.PatternTableRows : Prop :=
  ∀ p : Pattern,
    ([0, 1, 2, 3].map fun k => ((channelOffsets p).at k).index) =
      (match p with | .rggb => [0, 1, 1, 2] | .bggr => [2, 1, 1, 0] | .grbg => [1, 0, 2, 1] | .gbrg => [1, 2, 0, 1]) ∧
    ([0, 1, 2, 3].map fun k => ((channelOffsets p).at k).index).Perm [0, 1, 1, 2] ∧
    (((channelOffsets p).topRight = .green ∧ (channelOffsets p).bottomLeft = .green ∧ (p = .rggb ∨ p = .bggr)) ∨
      ((channelOffsets p).topLeft = .green ∧ (channelOffsets p).bottomRight = .green ∧ (p = .grbg ∨ p = .gbrg)))

/-- Sample widening. At 8 bits the output value of the sample at `a` is its byte times 256, the byte over 0x00, at most
0xFF00; at 16 bits it is the source value unchanged, the byte at `a` times 256 plus the byte at `a + 1`
(41_sample R142, 20_memory R51). -/
def Obligations.SampleWidening : Prop :=
  ∀ (b : Block) (m : Memory) (a : Nat),
    (b.ctrl.depth16 = false →
      b.sampleAt m a = m.read a ++ 0x00#8 ∧ (b.sampleAt m a).toNat = (m.read a).toNat * 256 ∧
      (b.sampleAt m a).toNat ≤ 0xFF00) ∧
    (b.ctrl.depth16 = true →
      b.sampleAt m a = m.read a ++ m.read (a + 1) ∧
      (b.sampleAt m a).toNat = (m.read a).toNat * 256 + (m.read (a + 1)).toNat)

/-- The block loop of Sample computes the closed form: one value for each output position, in row-major order,
independent of the loop order (41_sample R148, R153). -/
def Obligations.SampleIsClosedForm : Prop :=
  ∀ (b : Block) (m : Memory),
    (b.sample m).length = b.outWidth * b.outHeight ∧
    ∀ x y, x < b.outWidth → y < b.outHeight → (b.sample m)[y * b.outWidth + x]? = some (b.closedForm m x y)

/-- The read set is every address `a(x, y) + k` of an output position, the row stride being the source width
(41_sample R148, R144). -/
def Obligations.ReadSetMembers : Prop :=
  ∀ (b : Block) (a : Nat), a ∈ b.readSet ↔
    ∃ x y k, x < b.srcWidth.toNat - b.srcWidth.toNat % 2 ∧ y < b.srcHeight.toNat - b.srcHeight.toNat % 2 ∧
      k < (if b.ctrl.depth16 then 2 else 1) ∧
      a = b.srcAddr.toNat + ((y * b.srcWidth.toNat + x) * (if b.ctrl.alpha then 4 else 3)
        + ((channelOffsets b.ctrl.pattern).at (2 * (y % 2) + x % 2)).index) * (if b.ctrl.depth16 then 2 else 1) + k

/-- Of the bytes of the source region, byte k of channel c of pixel (x, y) is read exactly when the pixel is in no
dropped column or row and c is the channel the pattern selects there: alpha, the two other channels, and the trailing
column and row are never read (41_sample R154, 20_memory R57). -/
def Obligations.OnlySelectedBytesRead : Prop :=
  ∀ (b : Block) (x y c k : Nat), x < b.width → y < b.height → c < b.channels → k < b.bytesPerSample →
    (b.srcAddr.toNat + ((y * b.width + x) * b.channels + c) * b.bytesPerSample + k ∈ b.readSet ↔
      x < b.outWidth ∧ y < b.outHeight ∧ c = ((channelOffsets b.ctrl.pattern).at (2 * (y % 2) + x % 2)).index)

/-- Once StartCheck passes, every address the engine reads lies in the source region and every address it writes in the
destination region, all below 2^32, and it reads no address that it writes (41_sample R147, R159; 60_exceptions R190). -/
def Obligations.CheckedAddressesInSpace : Prop :=
  ∀ b : Block, b.startCheck = 0#4 →
    (∀ a ∈ b.readSet, b.srcAddr.toNat ≤ a ∧ a < b.srcAddr.toNat + b.srcSize ∧ a < 2 ^ 32) ∧
    (∀ a ∈ b.writeSet, b.dstAddr.toNat ≤ a ∧ a < b.dstAddr.toNat + b.dstSize ∧ a < 2 ^ 32) ∧
    (∀ a ∈ b.readSet, a ∉ b.writeSet)

/-- The sampled values depend on nothing but the configuration and the bytes of the read set
(41_sample R155, 00_scope R18). -/
def Obligations.SampleDependsOnReadSetOnly : Prop :=
  ∀ (b c : Block) (m n : Memory), b.SameConfig c → (∀ a ∈ b.readSet, m.read a = n.read a) → b.sample m = c.sample n

/-- OUT_WIDTH and OUT_HEIGHT are W' and H'; they are even, at most the source dimensions, with at most one column and one
row dropped, and the destination region has W'·H'·2 bytes (41_sample R156, R157). -/
def Obligations.OutputDimensions : Prop :=
  ∀ b : Block, (truncEvenWord b.srcWidth).toNat = b.outWidth ∧ (truncEvenWord b.srcHeight).toNat = b.outHeight ∧
    b.outWidth % 2 = 0 ∧ b.outWidth ≤ b.width ∧ b.width - b.outWidth ≤ 1 ∧
    b.outHeight % 2 = 0 ∧ b.outHeight ≤ b.height ∧ b.height - b.outHeight ≤ 1 ∧
    b.writeSet.length = b.outWidth * b.outHeight * 2

/-! ## Completion -/

/-- The engine's turn: a Busy engine completes, at its turn or when no other move is to come; an idle block changes
nothing (41_sample R151; 60_exceptions R205; 70_reset_and_hazards R232).
When the turn comes is the model's choice (log 1, log 2). -/
def Obligations.EngineTurn : Prop :=
  ∀ (s : State) (rest : List Move), s.rst = false →
    (s.block.status.busy = true → s.agenda = .engine :: rest →
      step s = complete { s with agenda := rest, resp := .none }) ∧
    (s.block.status.busy = true → s.agenda = [] → step s = complete { s with resp := .none }) ∧
    (s.block.status.busy = false → s.agenda = .engine :: rest →
      step s = .next { s with agenda := rest, resp := .none }) ∧
    (s.block.status.busy = false → s.agenda = [] → step s = .next s)

/-- Completion without error: sample (x, y) of the snapshot lies little-endian at DST_ADDR + 2·(y·W' + x), no byte outside
the write set changes, BUSY goes to 0 and DONE to 1, and nothing else changes (41_sample R149, R152; 20_memory R52). -/
def Obligations.CompletionWritesTheGrid : Prop :=
  ∀ s : State, s.block.dstFits → s.NoBusError → s.block.raced = false → s.touchesDevice = false →
    ∃ m : Memory, complete s = .next { s with mem := m, block := { s.block with
        status := { s.block.status with busy := false, done := true } } } ∧
      s.block.KeepsOutside s.mem m ∧
      ∀ x y, x < s.block.outWidth → y < s.block.outHeight →
        let d := s.block.dstAddr.toNat + 2 * (y * s.block.outWidth + x)
        let v := s.block.snap.getD (y * s.block.outWidth + x) 0#16
        m.read d = v.extractLsb' 0 8 ∧ m.read (d + 1) = v.extractLsb' 8 8

/-- Completion with a bus error: code 4 for a read error only, 5 for a write error only, 4 or 5 for both; ERR is set and
BUSY cleared, DONE stays; a byte of WS whose write gets a bus error, and every byte outside WS, stays; every other byte
of WS is a free byte; nothing else of the block changes (41_sample R150, 60_exceptions R194, R195).
Which free byte stands where, and the draw before them, is the model's representation of "any byte" (log 5). -/
def Obligations.CompletionWithBusError : Prop :=
  ∀ s : State, s.block.dstFits → (s.readError = true ∨ s.writeError = true) →
    ∃ (t : State) (code : BitVec 4), complete s = .next t ∧
      t.block = { s.block with status := { s.block.status with busy := false, err := true, errcode := code } } ∧
      (s.writeError = false → code = 4#4) ∧ (s.readError = false → code = 5#4) ∧ (code = 4#4 ∨ code = 5#4) ∧
      s.block.KeepsOutside s.mem t.mem ∧
      (∀ k, k < s.block.dstSize →
        t.mem.read (s.block.dstAddr.toNat + k) =
          if s.platform.busErr (s.block.dstAddr.toNat + k) .write then s.mem.read (s.block.dstAddr.toNat + k)
          else Config.freeByte (s.draws + 1 + k)) ∧
      t.platform = s.platform ∧ t.rst = s.rst ∧ t.agenda = s.agenda ∧ t.resp = s.resp

/-- Completion after the memory write hazard, or in device memory: DONE is set, every byte of WS is a free byte, every
byte outside stays (41_sample R149, 70_reset_and_hazards R228, 20_memory R59).
Which free byte stands where is the model's representation of "any byte" (log 5); DONE in device memory is log 12. -/
def Obligations.CompletionAfterHazard : Prop :=
  ∀ s : State, s.block.dstFits → s.NoBusError → (s.block.raced = true ∨ s.touchesDevice = true) →
    ∃ t : State, complete s = .next t ∧
      t.block = { s.block with status := { s.block.status with busy := false, done := true } } ∧
      s.block.KeepsOutside s.mem t.mem ∧
      (∀ k, k < s.block.dstSize → t.mem.read (s.block.dstAddr.toNat + k) = Config.freeByte (s.draws + k)) ∧
      t.platform = s.platform ∧ t.rst = s.rst ∧ t.agenda = s.agenda ∧ t.resp = s.resp

/-- An operation ends in DONE or in ERR, never in both and never in neither, and which of them depends on the bus errors
of RS and WS alone (41_sample R151). -/
def Obligations.CompletionEndsOneWay : Prop :=
  ∀ s t : State, s.block.status.busy = true → s.block.status.Legal → complete s = .next t →
    t.block.status.busy = false ∧ t.block.status.err = !t.block.status.done ∧
    (t.block.status.done = true ↔ s.NoBusError)

/-- A degenerate source, W < 2 or H < 2, has W' = 0 or H' = 0 and D = 0, reads and writes no memory, and the operation its
START begins completes with DONE (41_sample R158). -/
def Obligations.DegenerateOperation : Prop :=
  ∀ s : State, s.block.width < 2 ∨ s.block.height < 2 →
    (s.block.outWidth = 0 ∨ s.block.outHeight = 0) ∧ s.block.dstSize = 0 ∧
    s.block.readSet = [] ∧ s.block.writeSet = [] ∧ s.block.sample s.mem = [] ∧
    complete s = .next { s with block := { s.block with
      status := { s.block.status with busy := false, done := true } } }

/-- The engine never writes the source region, whichever way the operation ends, a reset included
(60_exceptions R195, 70_reset_and_hazards R221). -/
def Obligations.SourceNeverWritten : Prop :=
  ∀ s t : State, s.Inv → s.block.status.busy = true → complete s = .next t ∨ resetBlock s = .next t →
    ∀ a, s.block.srcAddr.toNat ≤ a → a < s.block.srcAddr.toNat + s.block.srcSize → t.mem.read a = s.mem.read a

/-! ## Interrupt and reset -/

/-- The interrupt output is high exactly when IEN and one of DONE and ERR are 1 (10_state R44). Every completion raises it
when IEN = 1, a STATUS write that clears both bits lowers it, and an accepted START whose checks pass lowers it
(60_exceptions R193, 40_register_access R103). -/
def Obligations.IrqRaisedAndCleared : Prop :=
  (∀ b : Block, b.irq = true ↔ b.ctrl.ien = true ∧ (b.status.done = true ∨ b.status.err = true)) ∧
  (∀ s t : State, complete s = .next t → t.block.irq = s.block.ctrl.ien) ∧
  (∀ (s : State) (data : Word32), data.getLsbD 1 = true → data.getLsbD 2 = true →
    ∃ t, exec (.wrStatus data) s = .next t ∧ t.block.irq = false) ∧
  (∀ (s : State) (data : Word32), s.block.status.busy = false → s.block.startCheck = 0#4 →
    ∃ t, exec (.wrCmdStart data) s = .next t ∧ t.block.irq = false)

/-- After reset every register reads its reset value, the engine is idle and `irq` is 0 (10_state R48, R22). -/
def Obligations.ResetValues : Prop :=
  (∀ i ∈ [Instr.rdCtrl, .rdStatus, .rdCmd, .rdSrcAddr, .rdDstAddr, .rdSrcWidth, .rdSrcHeight, .rdOutWidth,
      .rdOutHeight, .rdRsvdA 10#4, .rdRsvdA 11#4, .rdRsvdB 12#4, .rdRsvdB 13#4, .rdRsvdB 14#4, .rdRsvdB 15#4],
    exec i State.reset = .next { State.reset with resp := .word 0x00000000#32 }) ∧
  exec .rdCfaPattern State.reset = .next { State.reset with resp := .word 0x02010100#32 } ∧
  State.reset.block.phase = .idle ∧ State.reset.block.irq = false

/-- Asserting reset while idle puts the block at its reset values and leaves memory alone; releasing it changes nothing
else (70_reset_and_hazards R220, 10_state R48).
The agenda is the model's own (log 1), and so is holding the block while reset is asserted (log 9). -/
def Obligations.ResetWhileIdle : Prop :=
  ∀ (s : State) (rest : List Move),
    (s.block.status.busy = false → s.agenda = .resetInput true :: rest →
      step s = .next { s with block := Block.reset, rst := true, agenda := rest, resp := .none }) ∧
    (s.agenda = .resetInput false :: rest →
      step s = .next { s with
        block := if s.rst then Block.reset else s.block, rst := false, agenda := rest, resp := .none })

/-- Reset during an operation abandons it: the block is at its reset values, so DONE and ERR are 0, each byte of the write
set is a free byte, every byte outside it stays (70_reset_and_hazards R221).
Which free byte stands where is the model's representation of "any value" (log 5). -/
def Obligations.ResetWhileBusy : Prop :=
  ∀ (s : State) (rest : List Move), s.rst = false → s.block.status.busy = true → s.block.dstFits →
    s.agenda = .resetInput true :: rest →
    ∃ t : State, step s = .next t ∧ t.block = Block.reset ∧ t.rst = true ∧
      t.block.status.done = false ∧ t.block.status.err = false ∧
      s.block.KeepsOutside s.mem t.mem ∧
      (∀ k, k < s.block.dstSize → t.mem.read (s.block.dstAddr.toNat + k) = Config.freeByte (s.draws + k)) ∧
      t.platform = s.platform ∧ t.agenda = rest ∧ t.resp = .none

/-! ## Other agents' memory accesses -/

/-- A write by another agent writes its byte and no other; while Busy it sets ENG.raced when it hits the source region or
the write set; nothing else of the block changes (70_reset_and_hazards R228).
One byte a move, seen at once, is the model's choice (log 14), and so is that the byte is stored also where
`BusErr(addr, write)` holds, which tells of the engine's accesses only (log 18). -/
def Obligations.MemoryWriteHazard : Prop :=
  ∀ (s : State) (addr : Word32) (value : Byte) (rest : List Move),
    s.rst = false → s.agenda = .memWrite addr value :: rest →
    ∃ t : State, step s = .next t ∧
      (∀ a, t.mem.read a = if a = addr.toNat then value else s.mem.read a) ∧
      (∃ r : Bool, t.block = { s.block with raced := r } ∧
        (r = true ↔ s.block.raced = true ∨ (s.block.status.busy = true ∧
          ((s.block.srcAddr.toNat ≤ addr.toNat ∧ addr.toNat < s.block.srcAddr.toNat + s.block.srcSize) ∨
            (s.block.dstAddr.toNat ≤ addr.toNat ∧ addr.toNat < s.block.dstAddr.toNat + s.block.dstSize))))) ∧
      t.platform = s.platform ∧ t.rst = false ∧ t.agenda = rest ∧ t.resp = .none

/-- A read by another agent of a byte of WS while Busy returns a free byte; any other read returns the byte. Neither
changes the block or memory (70_reset_and_hazards R229; 20_memory R64 for the bytes of a completed operation).
The free byte is the model's representation of "any byte" (log 5). That any other read returns the byte as memory holds
it, also where `BusErr(addr, read)` holds, is the model's choice (log 14, log 18). -/
def Obligations.MemoryReadHazard : Prop :=
  ∀ (s : State) (addr : Word32) (rest : List Move), s.rst = false → s.agenda = .memRead addr :: rest →
    ((s.block.status.busy = true ∧ s.block.dstAddr.toNat ≤ addr.toNat ∧
        addr.toNat < s.block.dstAddr.toNat + s.block.dstSize) →
      step s = .next { s with
        agenda := rest, resp := .byte (Config.freeByte s.draws), draws := s.draws + 1 }) ∧
    (¬ (s.block.status.busy = true ∧ s.block.dstAddr.toNat ≤ addr.toNat ∧
        addr.toNat < s.block.dstAddr.toNat + s.block.dstSize) →
      step s = .next { s with agenda := rest, resp := .byte (s.mem.read addr.toNat) })

/-- Two memories in canonical form that read the same at every address are equal (the model's representation of
20_memory R50, log 6). -/
def Obligations.EqualReadsEqualMemories : Prop :=
  ∀ m n : Memory, m.wf → n.wf → (∀ a, m.read a = n.read a) → m = n

/-! ## The whole machine -/

/-- The invariant holds right after reset. -/
def Obligations.InvAtReset : Prop := State.reset.Inv ∧ State.reset.SnapshotCurrent

/-- Every step keeps the invariant: memory in canonical form, STATUS legal (10_state R33), a Busy engine with a checked
operation and a whole snapshot, and the block at its reset values while reset is asserted.
The first and the last part are the model's own invariants (log 6, log 9). -/
def Obligations.StepKeepsInv : Prop :=
  ∀ s t : State, s.Inv → step s = .next t → t.Inv

/-- From every state with the invariant the machine takes a next step: nothing a host sends, and no completion, faults or
is refused (30_encoding R87, 41_sample R159). -/
def Obligations.EveryStepHasANextState : Prop :=
  ∀ s : State, s.Inv → ∃ t, step s = .next t

/-- While no memory write hazard has happened, a Busy engine's snapshot stays what Sample computes from memory as it now
stands, whatever step is taken (00_scope R18, 70_reset_and_hazards R228). -/
def Obligations.StepKeepsSnapshotCurrent : Prop :=
  ∀ s t : State, s.Inv → s.SnapshotCurrent → step s = .next t → t.SnapshotCurrent

/-- A step of a Busy block leaves the configuration as it is, but for IEN, unless it asserts reset
(70_reset_and_hazards R225, 10_state R27). -/
def Obligations.ConfigurationFrozenWhileBusy : Prop :=
  ∀ s t : State, s.Inv → s.block.status.busy = true → step s = .next t → t.rst = false →
    s.block.SameConfig t.block

/-- BUSY goes from 1 to 0 only by success, by a bus error or by reset, and from 0 to 1 only by a START whose checks pass
(10_state R29, 42_host_interface R186). -/
def Obligations.BusyChangesOnlyBy : Prop :=
  ∀ s t : State, s.Inv → step s = .next t →
    (s.block.status.busy = true → t.block.status.busy = false →
      (t.rst = true ∧ t.block = Block.reset) ∨ (t.block.status.done = true ∧ t.block.status.err = false) ∨
      (t.block.status.done = false ∧ t.block.status.err = true ∧
        (t.block.status.errcode = 4#4 ∨ t.block.status.errcode = 5#4))) ∧
    (s.block.status.busy = false → t.block.status.busy = true →
      s.rst = false ∧ s.block.startCheck = 0#4 ∧
      ∃ (w : CommandWord) (data : Word32), decodeWord w = .wrCmdStart data ∧
        (s.agenda.head? = some (.command w) ∨
          ∃ a : BusAccess, s.agenda.head? = some (.busAccess a) ∧ w = a.commandWord s.platform))

/-- A step changes a byte of memory only where another agent writes it, or inside the write set of a Busy engine; a byte
elsewhere never changes (41_sample R149, R150; 60_exceptions R205). -/
def Obligations.MemoryChangesOnlyBy : Prop :=
  ∀ (s t : State) (a : Nat), step s = .next t → t.mem.read a ≠ s.mem.read a →
    (s.block.status.busy = true ∧ s.block.dstAddr.toNat ≤ a ∧ a < s.block.dstAddr.toNat + s.block.dstSize) ∨
    ∃ addr : Word32, addr.toNat = a ∧
      ((∃ value, s.agenda.head? = some (.memWrite addr value)) ∨ s.agenda.head? = some (.memWriteUnseen addr))

/-- An operation under way ends after finitely many steps, whatever moves are to come: at the latest one step after the
agenda is used up (70_reset_and_hazards R232).
The bound rests on the model's fairness, an agenda that is finite (log 2). -/
def Obligations.OperationEnds : Prop :=
  ∀ s : State, s.Inv → s.block.status.busy = true →
    ∃ (k : Nat) (t : State), k ≤ s.agenda.length + 1 ∧ run k s = .next t ∧ t.block.status.busy = false

/-- One operation, from its START on, which comes by command word or by bus access: when the block is idle, StartCheck
passes, no byte of RS or WS gets a bus error, the regions are ordinary memory, and up to the engine's turn the host keeps
its memory duties and no reset comes, the operation ends with DONE = 1 and the destination region holds the closed form
of the source bytes as they stood at START, whatever else the host does meanwhile and whatever moves come after
(42_host_interface R187, 41_sample R153).
`later` is what comes from the engine's turn on, and nothing is asked of it; without such a turn the operation ends when
the agenda is used up (log 1, log 2). That premise 4 covers caches and ordinary memory as `Move.Dutiful` and
`touchesDevice` say is the model's reading (log 12, log 14). -/
def Obligations.OperationYieldsClosedForm : Prop :=
  ∀ (s : State) (start : Move) (before later : List Move),
    s.rst = false → s.agenda = start :: (before ++ later) → start.IsStart s.platform →
    s.block.status.busy = false → s.block.startCheck = 0#4 → s.NoBusError → s.touchesDevice = false →
    (∀ m ∈ before, m.Dutiful s.block) → (later = [] ∨ later.head? = some .engine) →
    ∃ (k : Nat) (t : State), k ≤ before.length + 2 ∧ run k s = .next t ∧
      t.block.status.busy = false ∧ t.block.status.done = true ∧ t.block.status.err = false ∧
      s.block.HoldsResult s.mem t.mem

/-- Two operations with equal configuration and equal source bytes at START, both without hazard, error and device
memory, leave equal destination bytes when they complete (41_sample R155). -/
def Obligations.OperationsAreDeterministic : Prop :=
  ∀ (s u s1 u1 s2 u2 : State) (d e : Word32), s.block.SameConfig u.block →
    (∀ a ∈ s.block.readSet, s.mem.read a = u.mem.read a) →
    s.block.status.busy = false → u.block.status.busy = false → s.block.startCheck = 0#4 →
    s.NoBusError → u.NoBusError → s.touchesDevice = false → u.touchesDevice = false →
    exec (.wrCmdStart d) s = .next s1 → exec (.wrCmdStart e) u = .next u1 →
    complete s1 = .next s2 → complete u1 = .next u2 →
      ∀ a, s.block.dstAddr.toNat ≤ a → a < s.block.dstAddr.toNat + s.block.dstSize → s2.mem.read a = u2.mem.read a

/-! ## The host's side -/

/-- `parse` answers a pattern's code exactly for the names that are the pattern's name in any ASCII letter case, with
white space before and after, and InvalidPatternString for every other name; `display` gives the four upper-case names,
and `parse(display(p)) = p` (42_host_interface R182, R183). -/
def Obligations.ParseAcceptsExactlyTheNames : Prop :=
  (∀ (name : List Char) (code : BitVec 2), parsePattern name = .ok code ↔
    ∃ before core after : List Char, name = before ++ core ++ after ∧
      (∀ c ∈ before ++ after, (0x09 ≤ c.toNat ∧ c.toNat ≤ 0x0D) ∨ c.toNat = 0x20) ∧
      core.map upperAscii = displayPattern code) ∧
  (∀ (name : List Char) (e : DriverError), parsePattern name = .error e → e = .invalidPatternString) ∧
  (∀ code : BitVec 2, parsePattern (displayPattern code) = .ok code) ∧
  displayPattern 0b00#2 = ['R', 'G', 'G', 'B'] ∧ displayPattern 0b01#2 = ['B', 'G', 'G', 'R'] ∧
  displayPattern 0b10#2 = ['G', 'R', 'B', 'G'] ∧ displayPattern 0b11#2 = ['G', 'B', 'R', 'G']

/-- The driver sends moves only for a valid pattern name and a buffer of 3 or 4 channels at 8 or 16 bits; for any failed
input it returns an error and no move (42_host_interface R184).
That it launches a buffer whose samples have another length than 00_scope R15 says is the model's choice (log 22). -/
def Obligations.DriverSendsNothingOnFailure : Prop :=
  ∀ (name : List Char) (decoded : Except DriverError DecodedImage) (p : Placement) (moves : List Move),
    driverLaunch name decoded p = .ok moves ↔
      ∃ (code : BitVec 2) (img : DecodedImage), parsePattern name = .ok code ∧ decoded = .ok img ∧
        (img.channels = 3 ∨ img.channels = 4) ∧ (img.bitDepth = 8 ∨ img.bitDepth = 16) ∧
        moves = launchMoves img code (img.bitDepth == 16) (img.channels == 4) p

/-- The words of the pseudo-instructions: START, CLEAR, and CONFIG with its whole DATA, pat + 4·d16 + 8·alpha + 16·ien,
which sets the fields it names; each iteration of POLL is one RD of its register, it ends exactly on a response whose
masked bits are the value, and WAIT is iterations of RD STATUS that end exactly on a response with BUSY = 0
(30_encoding R91, R92). The number of iterations is open, an argument (log 20). -/
def Obligations.PseudoInstructions : Prop :=
  asmStart = 0x1200000001#37 ∧ asmClear = 0x1100000006#37 ∧
  (∀ (pat : BitVec 2) (d16 alpha ien : Bool),
    (asmConfig pat d16 alpha ien).toNat =
      0x1000000000 + (pat.toNat + (if d16 then 4 else 0) + (if alpha then 8 else 0) + (if ien then 16 else 0))) ∧
  (∀ (p : Pattern) (d16 alpha ien : Bool), ∃ data : Word32,
    decodeWord (asmConfig p.code d16 alpha ien) = .wrCtrl data ∧
      ctrlOfData data = { pattern := p, depth16 := d16, alpha := alpha, ien := ien }) ∧
  (∀ (r : RegName) (n : Nat), ∃ w : CommandWord, w.toNat = r.woff.toNat * 2 ^ 32 ∧
    asmPoll r n = List.replicate n (.command w)) ∧
  (∀ response mask value : Word32, pollEnds response mask value = true ↔ response &&& mask = value) ∧
  (∀ n : Nat, asmWait n = List.replicate n (.command 0x0100000000#37)) ∧
  (∀ t : Status, waitEnds t.word = true ↔ t.busy = false)

/-- What the block hands to the encoder: the even dimensions, W'·H'·2 strip bytes, the pattern's four channel indices in
position order, and the bytes of the destination region (42_host_interface R185). -/
def Obligations.EncoderInputsOfTheBlock : Prop :=
  ∀ s : State,
    (encoderInputs s).imageWidth = s.block.outWidth ∧ (encoderInputs s).imageLength = s.block.outHeight ∧
    (encoderInputs s).rowsPerStrip = s.block.outHeight ∧ (encoderInputs s).stripByteCounts = s.block.dstSize ∧
    (encoderInputs s).bitsPerSample = 16 ∧
    (encoderInputs s).cfaPattern2 =
      [0, 1, 2, 3].map (fun k => BitVec.ofNat 8 ((channelOffsets s.block.ctrl.pattern).at k).index) ∧
    (encoderInputs s).strip.length = s.block.dstSize ∧
    ∀ k, k < s.block.dstSize → (encoderInputs s).strip[k]? = some (s.mem.read (s.block.dstAddr.toNat + k))
end

