-- ==== Sys2Proof/Laws/Decode.lean ====
section
/-! SUPPORT. The fields of the words the encoder builds, and that every word is built from its fields: the lemmas by which
proofs about decoding avoid the bits of a command word. -/

namespace Sys2Proof

/-- Bit i of RW, WOFF and DATA put together: DATA below bit 32, WOFF below bit 36, then RW. -/
theorem CommandWord.bit_of_fields (rw : BitVec 1) (woff : Woff) (data : Word32) (i : Nat) :
    BitVec.getLsbD (w := 37) (rw ++ woff ++ data) i =
      if i < 32 then data.getLsbD i else if i < 36 then woff.getLsbD (i - 32) else rw.getLsbD (i - 36) := by
  change BitVec.getLsbD (w := 1 + 4 + 32) (rw ++ woff ++ data) i = _
  rw [BitVec.getLsbD_append, BitVec.getLsbD_append]
  split_ifs with h1 h2 h3 h3
  · rfl
  · rfl
  · omega
  · omega
  · congr 1

theorem CommandWord.data_of_fields (rw : BitVec 1) (woff : Woff) (data : Word32) :
    CommandWord.data (rw ++ woff ++ data : BitVec 37) = data := by
  apply BitVec.eq_of_getLsbD_eq
  intro i hi
  rw [CommandWord.data, BitVec.getLsbD_extractLsb', CommandWord.bit_of_fields]
  simp [hi]

theorem CommandWord.woff_of_fields (rw : BitVec 1) (woff : Woff) (data : Word32) :
    CommandWord.woff (rw ++ woff ++ data : BitVec 37) = woff := by
  apply BitVec.eq_of_getLsbD_eq
  intro i hi
  rw [CommandWord.woff, BitVec.getLsbD_extractLsb', CommandWord.bit_of_fields, if_neg (by omega), if_pos (by omega)]
  simp [hi, show 32 + i - 32 = i by omega]

theorem CommandWord.isWrite_of_fields (rw : BitVec 1) (woff : Woff) (data : Word32) :
    CommandWord.isWrite (rw ++ woff ++ data : BitVec 37) = rw.getLsbD 0 := by
  rw [CommandWord.isWrite, CommandWord.bit_of_fields]
  rfl

@[simp] theorem encodeRead_isWrite (woff : Woff) : (encodeRead woff).isWrite = false :=
  CommandWord.isWrite_of_fields 0#1 woff 0#32

@[simp] theorem encodeRead_woff (woff : Woff) : (encodeRead woff).woff = woff :=
  CommandWord.woff_of_fields 0#1 woff 0#32

@[simp] theorem encodeRead_data (woff : Woff) : (encodeRead woff).data = 0#32 :=
  CommandWord.data_of_fields 0#1 woff 0#32

@[simp] theorem encodeWrite_isWrite (woff : Woff) (data : Word32) : (encodeWrite woff data).isWrite = true :=
  CommandWord.isWrite_of_fields 1#1 woff data

@[simp] theorem encodeWrite_woff (woff : Woff) (data : Word32) : (encodeWrite woff data).woff = woff :=
  CommandWord.woff_of_fields 1#1 woff data

@[simp] theorem encodeWrite_data (woff : Woff) (data : Word32) : (encodeWrite woff data).data = data :=
  CommandWord.data_of_fields 1#1 woff data

@[simp] theorem decodeWord_encodeRead (woff : Woff) : decodeWord (encodeRead woff) = decodeRead woff := by
  simp [decodeWord]

@[simp] theorem decodeWord_encodeWrite (woff : Woff) (data : Word32) :
    decodeWord (encodeWrite woff data) = decodeWrite woff data := by
  simp [decodeWord]

/-- Every word is its three fields put together. -/
theorem CommandWord.eq_fields (w : CommandWord) : w = (BitVec.ofBool w.isWrite ++ w.woff ++ w.data : BitVec 37) := by
  apply BitVec.eq_of_getLsbD_eq
  intro i hi
  rw [CommandWord.bit_of_fields, CommandWord.data, CommandWord.woff, CommandWord.isWrite]
  split_ifs with h1 h2
  · rw [BitVec.getLsbD_extractLsb']; simp [h1]
  · rw [BitVec.getLsbD_extractLsb', show 32 + (i - 32) = i by omega]; simp [show i - 32 < 4 by omega]
  · obtain rfl : i = 36 := by omega
    rw [BitVec.getLsbD_ofBool]; rfl

/-- A write word is the encoding of its fields. -/
theorem CommandWord.eq_encodeWrite {w : CommandWord} (h : w.isWrite = true) : w = encodeWrite w.woff w.data := by
  have hw := w.eq_fields
  rw [h] at hw
  exact hw

/-- The sixteen word offsets. -/
theorem Woff.cases16 (x : Woff) : x = 0#4 ∨ x = 1#4 ∨ x = 2#4 ∨ x = 3#4 ∨ x = 4#4 ∨ x = 5#4 ∨ x = 6#4 ∨ x = 7#4 ∨
    x = 8#4 ∨ x = 9#4 ∨ x = 10#4 ∨ x = 11#4 ∨ x = 12#4 ∨ x = 13#4 ∨ x = 14#4 ∨ x = 15#4 := by
  revert x; decide

end Sys2Proof
end

