-- ==== Sys2Proof/Laws/Memory.lean ====
section
/-! SUPPORT. What every memory operation does to the read of one byte, and that each keeps the canonical form. -/

namespace Sys2Proof.Machine

/-! ### One byte -/

theorem Memory.read_erase (m : Memory) (a c : Nat) :
    (m.erase a).read c = if c = a then Config.unlistedByte else m.read c := by
  induction m with
  | nil => simp [Memory.erase, Memory.read]
  | cons e rest ih =>
    obtain ⟨k, v⟩ := e
    have ih' : Memory.read (List.filter (fun e => e.1 != a) rest) c
        = if c = a then Config.unlistedByte else Memory.read rest c := ih
    by_cases hk : k = a <;> by_cases hc : c = a <;>
      simp_all [Memory.erase, Memory.read]
    all_goals intro h; exact absurd h.symm (by assumption)

theorem Memory.read_insert (m : Memory) (a : Nat) (b : Byte) (c : Nat) (h : ∀ e ∈ m, e.1 ≠ a) :
    (m.insert a b).read c = if c = a then b else m.read c := by
  induction m with
  | nil =>
    by_cases hc : c = a
    · simp [Memory.insert, Memory.read, hc]
    · simp [Memory.insert, Memory.read, hc, Ne.symm hc]
  | cons e rest ih =>
    obtain ⟨k, v⟩ := e
    have hk : k ≠ a := h (k, v) (by simp)
    have ih' := ih fun e he => h e (by simp [he])
    by_cases hlt : a < k
    · by_cases hc : c = a
      · simp [Memory.insert, hlt, Memory.read, hc]
      · simp [Memory.insert, hlt, Memory.read, hc, Ne.symm hc]
    · by_cases hkc : k = c
      · subst hkc
        simp [Memory.insert, hlt, Memory.read, hk]
      · simp [Memory.insert, hlt, Memory.read, hkc, ih']

theorem Memory.erase_ne (m : Memory) (a : Nat) : ∀ e ∈ m.erase a, e.1 ≠ a := by
  intro e he
  simpa using (List.mem_filter.mp he).2

/-- A write gives the written byte at its address and leaves every other byte alone. -/
@[simp] theorem Memory.read_write (m : Memory) (a : Nat) (b : Byte) (c : Nat) :
    (m.write a b).read c = if c = a then b else m.read c := by
  unfold Memory.write
  split
  next hb => rw [Memory.read_erase, hb]
  next => rw [Memory.read_insert _ _ _ _ (m.erase_ne a), Memory.read_erase]; split <;> rfl

/-! ### The canonical form -/

theorem Memory.wf_nil : Memory.wf [] := ⟨List.Pairwise.nil, fun _ h => absurd h List.not_mem_nil⟩

theorem Memory.wf_erase {m : Memory} (h : m.wf) (a : Nat) : (m.erase a).wf :=
  ⟨h.1.sublist List.filter_sublist, fun c hc => h.2 c (List.mem_filter.mp hc).1⟩

theorem Memory.mem_insert {m : Memory} {a : Nat} {b : Byte} {e : Host.Cell} :
    e ∈ m.insert a b ↔ e = (a, b) ∨ e ∈ m := by
  induction m with
  | nil => simp [Memory.insert]
  | cons c rest ih =>
    obtain ⟨k, v⟩ := c
    by_cases hlt : a < k
    · simp [Memory.insert, hlt]
    · simp only [Memory.insert, if_neg hlt, List.mem_cons, ih]
      tauto

theorem Memory.wf_insert {m : Memory} (h : m.wf) {a : Nat} {b : Byte} (hm : ∀ e ∈ m, e.1 ≠ a)
    (ha : a < Config.memorySize) (hb : b ≠ Config.unlistedByte) : (m.insert a b).wf := by
  refine ⟨?_, fun c hc => ?_⟩
  · induction m with
    | nil => simp [Memory.insert]
    | cons e rest ih =>
      obtain ⟨k, v⟩ := e
      have hp := List.pairwise_cons.mp h.1
      have hk : k ≠ a := hm (k, v) (by simp)
      by_cases hlt : a < k
      · simp only [Memory.insert, if_pos hlt]
        refine List.pairwise_cons.mpr ⟨fun c hc => ?_, h.1⟩
        rcases List.mem_cons.mp hc with rfl | hc
        · exact hlt
        · exact lt_trans hlt (hp.1 c hc)
      · simp only [Memory.insert, if_neg hlt]
        refine List.pairwise_cons.mpr ⟨fun c hc => ?_, ih ⟨hp.2, fun c hc => h.2 c (by simp [hc])⟩
          fun e he => hm e (by simp [he])⟩
        rcases Memory.mem_insert.mp hc with rfl | hc
        · exact lt_of_le_of_ne (not_lt.mp hlt) hk
        · exact hp.1 c hc
  · rcases Memory.mem_insert.mp hc with rfl | hc
    · exact ⟨ha, hb⟩
    · exact h.2 c hc

theorem Memory.wf_write {m : Memory} (h : m.wf) {a : Nat} (ha : a < Config.memorySize) (b : Byte) :
    (m.write a b).wf := by
  unfold Memory.write
  split
  · exact Memory.wf_erase h a
  next hb => exact Memory.wf_insert (Memory.wf_erase h a) (m.erase_ne a) ha hb

/-! ### Any byte, over a region -/

theorem Memory.fillAny_zero (m : Memory) (first draw : Nat) (keep : Nat → Bool) :
    m.fillAny first 0 draw keep = m := rfl

theorem Memory.fillAny_succ (m : Memory) (first n draw : Nat) (keep : Nat → Bool) :
    m.fillAny first (n + 1) draw keep =
      if keep (first + n) then m.fillAny first n draw keep
      else (m.fillAny first n draw keep).write (first + n) (Config.freeByte (draw + n)) := by
  simp [Memory.fillAny, List.range_succ]

/-- Outside the region, and where `keep` holds, a byte stays; any other byte is its own free byte. -/
theorem Memory.read_fillAny (m : Memory) (first length draw : Nat) (keep : Nat → Bool) (a : Nat) :
    (m.fillAny first length draw keep).read a =
      if first ≤ a ∧ a < first + length ∧ keep a = false then Config.freeByte (draw + (a - first)) else m.read a := by
  induction length with
  | zero =>
    rw [Memory.fillAny_zero, if_neg (by omega)]
  | succ n ih =>
    rw [Memory.fillAny_succ]
    by_cases hk : keep (first + n) = true
    · rw [if_pos hk, ih]
      by_cases ha : a = first + n
      · subst ha; simp [hk]
      · congr 1
        simp only [eq_iff_iff]
        constructor <;> rintro ⟨h1, h2, h3⟩ <;> exact ⟨h1, by omega, h3⟩
    · rw [if_neg hk, Memory.read_write, ih]
      by_cases ha : a = first + n
      · subst ha; simp [hk]
      · rw [if_neg ha]
        congr 1
        simp only [eq_iff_iff]
        constructor <;> rintro ⟨h1, h2, h3⟩ <;> exact ⟨h1, by omega, h3⟩

theorem Memory.wf_fillAny {m : Memory} (h : m.wf) {first length : Nat} (hf : first + length ≤ Config.memorySize)
    (draw : Nat) (keep : Nat → Bool) : (m.fillAny first length draw keep).wf := by
  induction length with
  | zero => exact h
  | succ n ih =>
    rw [Memory.fillAny_succ]
    split
    · exact ih (by omega)
    · exact Memory.wf_write (ih (by omega)) (by omega) _

/-! ### The grid -/

@[simp] theorem Memory.read_writeSample (m : Memory) (d : Nat) (v : Sample16) (a : Nat) :
    (m.writeSample d v).read a =
      if a = d + 1 then v.extractLsb' 8 8 else if a = d then v.extractLsb' 0 8 else m.read a := by
  simp [Memory.writeSample]

theorem Memory.wf_writeSample {m : Memory} (h : m.wf) {d : Nat} (hd : d + 1 < Config.memorySize) (v : Sample16) :
    (m.writeSample d v).wf :=
  Memory.wf_write (Memory.wf_write h (by omega) _) hd _

end Sys2Proof.Machine
end

