-- ==== Sys2Proof/Laws/Sample.lean ====
section
/-! SUPPORT. What the grid writes do to memory, and what the derived quantities, StartCheck and Sample depend on. -/

namespace Sys2Proof.Machine

/-! ### The grid writes, byte by byte -/

/-- Samples `f 0`, `f 1`, … stored one after another from `d` on. -/
theorem Memory.read_foldl_writeSample (m : Memory) (d n : Nat) (f : Nat → Sample16) (a : Nat) :
    ((List.range n).foldl (fun m x => m.writeSample (d + 2 * x) (f x)) m).read a =
      if d ≤ a ∧ a < d + 2 * n then (f ((a - d) / 2)).extractLsb' (8 * ((a - d) % 2)) 8 else m.read a := by
  induction n with
  | zero => rw [if_neg (by omega)]; rfl
  | succ n ih =>
    rw [List.range_succ, List.foldl_concat, Memory.read_writeSample, ih]
    by_cases h1 : a = d + 2 * n + 1
    · subst h1
      rw [if_pos rfl, if_pos (by omega), show (d + 2 * n + 1 - d) / 2 = n by omega,
        show (d + 2 * n + 1 - d) % 2 = 1 by omega]
    · rw [if_neg h1]
      by_cases h2 : a = d + 2 * n
      · subst h2
        rw [if_pos rfl, if_pos (by omega), show (d + 2 * n - d) / 2 = n by omega,
          show (d + 2 * n - d) % 2 = 0 by omega]
      · rw [if_neg h2]
        by_cases h3 : d ≤ a ∧ a < d + 2 * n
        · rw [if_pos h3, if_pos (by omega)]
        · rw [if_neg h3, if_neg (by omega)]

theorem Memory.wf_foldl_writeSample {m : Memory} (h : m.wf) {d n : Nat} (hd : d + 2 * n ≤ Config.memorySize)
    (f : Nat → Sample16) : ((List.range n).foldl (fun m x => m.writeSample (d + 2 * x) (f x)) m).wf := by
  induction n with
  | zero => exact h
  | succ n ih =>
    rw [List.range_succ, List.foldl_concat]
    exact Memory.wf_writeSample (ih (by omega)) (by omega) _

/-- The row loop of `writeGrid`, as the rows before row `n`. -/
theorem Block.read_rows (b : Block) (m : Memory) (n a : Nat) :
    ((List.range n).foldl (fun m y =>
      (List.range b.outWidth).foldl (fun m x =>
        m.writeSample (b.gridAddr x y) (b.snap.getD (y * b.outWidth + x) 0#16)) m) m).read a =
      if b.dstAddr.toNat ≤ a ∧ a < b.dstAddr.toNat + 2 * (n * b.outWidth) then
        (b.snap.getD ((a - b.dstAddr.toNat) / 2) 0#16).extractLsb' (8 * ((a - b.dstAddr.toNat) % 2)) 8
      else m.read a := by
  induction n with
  | zero => rw [if_neg (by omega)]; rfl
  | succ n ih =>
    rw [List.range_succ, List.foldl_concat]
    have e : ∀ x, b.gridAddr x n = (b.dstAddr.toNat + 2 * (n * b.outWidth)) + 2 * x := by
      intro x; simp only [Block.gridAddr]; omega
    simp only [e]
    rw [Memory.read_foldl_writeSample _ _ _ (fun x => b.snap.getD (n * b.outWidth + x) 0#16), ih, Nat.add_one_mul n b.outWidth]
    generalize n * b.outWidth = k
    generalize b.dstAddr.toNat = d
    by_cases h1 : d + 2 * k ≤ a ∧ a < d + 2 * k + 2 * b.outWidth
    · rw [if_pos h1, if_pos (by omega), show k + (a - (d + 2 * k)) / 2 = (a - d) / 2 by omega,
        show (a - (d + 2 * k)) % 2 = (a - d) % 2 by omega]
    · rw [if_neg h1]
      by_cases h2 : d ≤ a ∧ a < d + 2 * k
      · rw [if_pos h2, if_pos (by omega)]
      · rw [if_neg h2, if_neg (by omega)]

/-- The grid writes: byte j of the destination region becomes byte j mod 2 of sample j div 2, the less significant byte
first, and every byte outside the region stays. -/
theorem Block.read_writeGrid (b : Block) (m : Memory) (a : Nat) :
    (b.writeGrid m).read a =
      if b.dstAddr.toNat ≤ a ∧ a < b.dstAddr.toNat + b.dstSize then
        (b.snap.getD ((a - b.dstAddr.toNat) / 2) 0#16).extractLsb' (8 * ((a - b.dstAddr.toNat) % 2)) 8
      else m.read a := by
  have hD : b.dstSize = 2 * (b.outHeight * b.outWidth) := by
    simp only [Block.dstSize]; rw [Nat.mul_comm, Nat.mul_comm b.outWidth]
  rw [Block.writeGrid, Block.read_rows, hD]

theorem Block.wf_writeGrid (b : Block) {m : Memory} (h : m.wf)
    (hf : b.dstAddr.toNat + b.dstSize ≤ Config.memorySize) : (b.writeGrid m).wf := by
  have hD : b.dstSize = 2 * (b.outHeight * b.outWidth) := by
    simp only [Block.dstSize]; rw [Nat.mul_comm, Nat.mul_comm b.outWidth]
  rw [hD] at hf
  unfold Block.writeGrid
  generalize b.outHeight = n at hf
  induction n with
  | zero => exact h
  | succ n ih =>
    rw [List.range_succ, List.foldl_concat]
    have e : ∀ x, b.gridAddr x n = (b.dstAddr.toNat + 2 * (n * b.outWidth)) + 2 * x := by
      intro x; simp only [Block.gridAddr]; omega
    simp only [e]
    rw [Nat.add_one_mul n b.outWidth] at hf
    exact Memory.wf_foldl_writeSample (ih (by omega)) (by omega) fun x => b.snap.getD (n * b.outWidth + x) 0#16

/-! ### Which positions and which addresses -/

theorem truncEven_even (v : Nat) : truncEven v % 2 = 0 := by unfold truncEven; omega

theorem truncEven_le (v : Nat) : truncEven v ≤ v := by unfold truncEven; omega

/-- The loop of Sample visits each output position, and no other, with its own position index. -/
theorem Block.mem_visits (b : Block) (v : Visit) :
    v ∈ b.visits ↔ v.x < b.outWidth ∧ v.y < b.outHeight ∧ v.p = 2 * (v.y % 2) + v.x % 2 := by
  have hw := truncEven_even b.width
  have hh := truncEven_even b.height
  obtain ⟨p, x, y⟩ := v
  simp only [Block.visits, List.mem_flatMap, List.mem_range, List.mem_map, Visit.mk.injEq, Block.outWidth,
    Block.outHeight] at *
  constructor
  · rintro ⟨yb, h3, xb, h4, q, h5, rfl, rfl, rfl⟩
    omega
  · rintro ⟨h3, h4, rfl⟩
    exact ⟨y / 2, by omega, x / 2, by omega, _, by omega, rfl, by omega, by omega⟩

theorem Block.mem_writeSet (b : Block) (a : Nat) :
    a ∈ b.writeSet ↔ b.dstAddr.toNat ≤ a ∧ a < b.dstAddr.toNat + b.dstSize := by
  simp only [Block.writeSet, List.mem_map, List.mem_range]
  exact ⟨by rintro ⟨k, h, rfl⟩; omega, fun h => ⟨a - b.dstAddr.toNat, by omega, by omega⟩⟩

/-! ### What the pure part depends on: the configuration without the interrupt enable -/

/-- Blocks that agree on PATTERN, DEPTH16, ALPHA, the addresses and the dimensions agree on every derived quantity. -/
theorem Block.derived_congr {b c : Block} (hp : b.ctrl.pattern = c.ctrl.pattern) (hd : b.ctrl.depth16 = c.ctrl.depth16)
    (ha : b.ctrl.alpha = c.ctrl.alpha) (hs : b.srcAddr = c.srcAddr) (ht : b.dstAddr = c.dstAddr)
    (hw : b.srcWidth = c.srcWidth) (hh : b.srcHeight = c.srcHeight) :
    b.startCheck = c.startCheck ∧ b.sample = c.sample ∧ b.readSet = c.readSet ∧ b.writeSet = c.writeSet ∧
      b.srcRegion = c.srcRegion ∧ b.dstRegion = c.dstRegion ∧ b.dstSize = c.dstSize ∧
      b.outWidth = c.outWidth ∧ b.outHeight = c.outHeight := by
  obtain ⟨⟨p, d, al, i⟩, st, sa, da, sw, sh, sn, ra⟩ := b
  obtain ⟨⟨p', d', al', i'⟩, st', sa', da', sw', sh', sn', ra'⟩ := c
  simp only at hp hd ha hs ht hw hh
  subst hp hd ha hs ht hw hh
  exact ⟨rfl, rfl, rfl, rfl, rfl, rfl, rfl, rfl, rfl⟩

theorem Block.sample_length (b : Block) (m : Memory) : (b.sample m).length = b.outWidth * b.outHeight := by
  have h : ∀ (vs : List Visit) (l : List Sample16),
      (vs.foldl (fun snap v => snap.set (v.y * b.outWidth + v.x) (b.sampleAt m (b.visitAddr v))) l).length
        = l.length := by
    intro vs
    induction vs with
    | nil => intro l; rfl
    | cons v vs ih => intro l; rw [List.foldl_cons, ih, List.length_set]
  rw [Block.sample, h, List.length_replicate]

/-- StartCheck answers one of the four codes of the START step. -/
theorem Block.startCheck_cases (b : Block) :
    b.startCheck = codeNone ∨ b.startCheck = codeSrcRange ∨ b.startCheck = codeDstRange ∨
      b.startCheck = codeOverlap := by
  unfold Block.startCheck
  split_ifs <;> simp

/-- A passed StartCheck keeps the destination region inside the address space. -/
theorem Block.dstFits_of_startCheck {b : Block} (h : b.startCheck = codeNone) : b.dstFits := by
  unfold Block.startCheck at h
  unfold Block.dstFits
  have hd := b.dstAddr.isLt
  have hM : Config.memorySize = 2 ^ 32 := rfl
  split_ifs at h with h1 h2 h3
  · exact absurd h (by decide)
  · exact absurd h (by decide)
  · exact absurd h (by decide)
  · by_cases hD : 0 < b.dstSize
    · have : ¬ (b.dstAddr.toNat + b.dstSize > Config.memorySize) := fun hc => h2 ⟨hD, hc⟩
      omega
    · omega

end Sys2Proof.Machine
end

