-- ==== Sys2Proof/Laws/State.lean ====
section
/-! SUPPORT. One lemma per field per update of the state, the block and STATUS, each true by rfl, so that no later proof
unfolds a record update. -/

namespace Sys2Proof.Machine

/-! ### `State.answer` -/

@[simp] theorem State.answer_block (s : State) (r : Response) : (s.answer r).block = s.block := rfl
@[simp] theorem State.answer_mem (s : State) (r : Response) : (s.answer r).mem = s.mem := rfl
@[simp] theorem State.answer_platform (s : State) (r : Response) : (s.answer r).platform = s.platform := rfl
@[simp] theorem State.answer_rst (s : State) (r : Response) : (s.answer r).rst = s.rst := rfl
@[simp] theorem State.answer_agenda (s : State) (r : Response) : (s.answer r).agenda = s.agenda := rfl
@[simp] theorem State.answer_resp (s : State) (r : Response) : (s.answer r).resp = r := rfl
@[simp] theorem State.answer_draws (s : State) (r : Response) : (s.answer r).draws = s.draws := rfl

/-! ### `State.withBlock` -/

@[simp] theorem State.withBlock_block (s : State) (b : Block) : (s.withBlock b).block = b := rfl
@[simp] theorem State.withBlock_mem (s : State) (b : Block) : (s.withBlock b).mem = s.mem := rfl
@[simp] theorem State.withBlock_platform (s : State) (b : Block) : (s.withBlock b).platform = s.platform := rfl
@[simp] theorem State.withBlock_rst (s : State) (b : Block) : (s.withBlock b).rst = s.rst := rfl
@[simp] theorem State.withBlock_agenda (s : State) (b : Block) : (s.withBlock b).agenda = s.agenda := rfl
@[simp] theorem State.withBlock_resp (s : State) (b : Block) : (s.withBlock b).resp = s.resp := rfl
@[simp] theorem State.withBlock_draws (s : State) (b : Block) : (s.withBlock b).draws = s.draws := rfl

/-! ### `State.fillDestination` -/

@[simp] theorem State.fillDestination_block (s : State) (keep : Nat → Bool) : (s.fillDestination keep).block = s.block := rfl
@[simp] theorem State.fillDestination_mem (s : State) (keep : Nat → Bool) : (s.fillDestination keep).mem = s.mem.fillAny s.block.dstAddr.toNat s.block.dstSize s.draws keep := rfl
@[simp] theorem State.fillDestination_platform (s : State) (keep : Nat → Bool) : (s.fillDestination keep).platform = s.platform := rfl
@[simp] theorem State.fillDestination_rst (s : State) (keep : Nat → Bool) : (s.fillDestination keep).rst = s.rst := rfl
@[simp] theorem State.fillDestination_agenda (s : State) (keep : Nat → Bool) : (s.fillDestination keep).agenda = s.agenda := rfl
@[simp] theorem State.fillDestination_resp (s : State) (keep : Nat → Bool) : (s.fillDestination keep).resp = s.resp := rfl
@[simp] theorem State.fillDestination_draws (s : State) (keep : Nat → Bool) : (s.fillDestination keep).draws = s.draws + s.block.dstSize := rfl

/-! ### `Block.enterError` -/

@[simp] theorem Block.enterError_ctrl (b : Block) (code : BitVec 4) : (b.enterError code).ctrl = b.ctrl := rfl
@[simp] theorem Block.enterError_status (b : Block) (code : BitVec 4) : (b.enterError code).status = b.status.failed code := rfl
@[simp] theorem Block.enterError_srcAddr (b : Block) (code : BitVec 4) : (b.enterError code).srcAddr = b.srcAddr := rfl
@[simp] theorem Block.enterError_dstAddr (b : Block) (code : BitVec 4) : (b.enterError code).dstAddr = b.dstAddr := rfl
@[simp] theorem Block.enterError_srcWidth (b : Block) (code : BitVec 4) : (b.enterError code).srcWidth = b.srcWidth := rfl
@[simp] theorem Block.enterError_srcHeight (b : Block) (code : BitVec 4) : (b.enterError code).srcHeight = b.srcHeight := rfl
@[simp] theorem Block.enterError_snap (b : Block) (code : BitVec 4) : (b.enterError code).snap = b.snap := rfl
@[simp] theorem Block.enterError_raced (b : Block) (code : BitVec 4) : (b.enterError code).raced = b.raced := rfl

/-! ### `Block.recoverByStart` -/

@[simp] theorem Block.recoverByStart_ctrl (b : Block) : (b.recoverByStart).ctrl = b.ctrl := rfl
@[simp] theorem Block.recoverByStart_status (b : Block) : (b.recoverByStart).status = b.status.cleared := rfl
@[simp] theorem Block.recoverByStart_srcAddr (b : Block) : (b.recoverByStart).srcAddr = b.srcAddr := rfl
@[simp] theorem Block.recoverByStart_dstAddr (b : Block) : (b.recoverByStart).dstAddr = b.dstAddr := rfl
@[simp] theorem Block.recoverByStart_srcWidth (b : Block) : (b.recoverByStart).srcWidth = b.srcWidth := rfl
@[simp] theorem Block.recoverByStart_srcHeight (b : Block) : (b.recoverByStart).srcHeight = b.srcHeight := rfl
@[simp] theorem Block.recoverByStart_snap (b : Block) : (b.recoverByStart).snap = b.snap := rfl
@[simp] theorem Block.recoverByStart_raced (b : Block) : (b.recoverByStart).raced = b.raced := rfl

/-! ### `Block.recoverByWrite` -/

@[simp] theorem Block.recoverByWrite_ctrl (b : Block) (data : Word32) : (b.recoverByWrite data).ctrl = b.ctrl := rfl
@[simp] theorem Block.recoverByWrite_status (b : Block) (data : Word32) : (b.recoverByWrite data).status = (b.status.w1cDone (clearsDone data)).w1cErr (clearsErr data) := rfl
@[simp] theorem Block.recoverByWrite_srcAddr (b : Block) (data : Word32) : (b.recoverByWrite data).srcAddr = b.srcAddr := rfl
@[simp] theorem Block.recoverByWrite_dstAddr (b : Block) (data : Word32) : (b.recoverByWrite data).dstAddr = b.dstAddr := rfl
@[simp] theorem Block.recoverByWrite_srcWidth (b : Block) (data : Word32) : (b.recoverByWrite data).srcWidth = b.srcWidth := rfl
@[simp] theorem Block.recoverByWrite_srcHeight (b : Block) (data : Word32) : (b.recoverByWrite data).srcHeight = b.srcHeight := rfl
@[simp] theorem Block.recoverByWrite_snap (b : Block) (data : Word32) : (b.recoverByWrite data).snap = b.snap := rfl
@[simp] theorem Block.recoverByWrite_raced (b : Block) (data : Word32) : (b.recoverByWrite data).raced = b.raced := rfl

/-! ### `Status.cleared` -/

@[simp] theorem Status.cleared_busy (t : Status) : (t.cleared).busy = t.busy := rfl
@[simp] theorem Status.cleared_done (t : Status) : (t.cleared).done = false := rfl
@[simp] theorem Status.cleared_err (t : Status) : (t.cleared).err = false := rfl
@[simp] theorem Status.cleared_errcode (t : Status) : (t.cleared).errcode = codeNone := rfl

/-! ### `Status.begun` -/

@[simp] theorem Status.begun_busy (t : Status) : (t.begun).busy = true := rfl
@[simp] theorem Status.begun_done (t : Status) : (t.begun).done = t.done := rfl
@[simp] theorem Status.begun_err (t : Status) : (t.begun).err = t.err := rfl
@[simp] theorem Status.begun_errcode (t : Status) : (t.begun).errcode = t.errcode := rfl

/-! ### `Status.ended` -/

@[simp] theorem Status.ended_busy (t : Status) : (t.ended).busy = false := rfl
@[simp] theorem Status.ended_done (t : Status) : (t.ended).done = true := rfl
@[simp] theorem Status.ended_err (t : Status) : (t.ended).err = t.err := rfl
@[simp] theorem Status.ended_errcode (t : Status) : (t.ended).errcode = t.errcode := rfl

/-! ### `Status.failed` -/

@[simp] theorem Status.failed_busy (t : Status) (code : BitVec 4) : (t.failed code).busy = false := rfl
@[simp] theorem Status.failed_done (t : Status) (code : BitVec 4) : (t.failed code).done = t.done := rfl
@[simp] theorem Status.failed_err (t : Status) (code : BitVec 4) : (t.failed code).err = true := rfl
@[simp] theorem Status.failed_errcode (t : Status) (code : BitVec 4) : (t.failed code).errcode = code := rfl

/-! ### Write 1 to clear -/

@[simp] theorem Status.w1cDone_busy (t : Status) (c : Bool) : (t.w1cDone c).busy = t.busy := by
  cases c <;> rfl
@[simp] theorem Status.w1cDone_done (t : Status) (c : Bool) : (t.w1cDone c).done = (t.done && !c) := by
  cases c <;> simp [Status.w1cDone]
@[simp] theorem Status.w1cDone_err (t : Status) (c : Bool) : (t.w1cDone c).err = t.err := by
  cases c <;> rfl
@[simp] theorem Status.w1cDone_errcode (t : Status) (c : Bool) : (t.w1cDone c).errcode = t.errcode := by
  cases c <;> rfl
@[simp] theorem Status.w1cErr_busy (t : Status) (c : Bool) : (t.w1cErr c).busy = t.busy := by
  cases c <;> rfl
@[simp] theorem Status.w1cErr_done (t : Status) (c : Bool) : (t.w1cErr c).done = t.done := by
  cases c <;> rfl
@[simp] theorem Status.w1cErr_err (t : Status) (c : Bool) : (t.w1cErr c).err = (t.err && !c) := by
  cases c <;> simp [Status.w1cErr]
@[simp] theorem Status.w1cErr_errcode (t : Status) (c : Bool) :
    (t.w1cErr c).errcode = if c then codeNone else t.errcode := by
  cases c <;> rfl

/-! ### The reset block -/

@[simp] theorem Block.reset_busy : Block.reset.status.busy = false := rfl

theorem State.heldInReset_of_released {s : State} (h : s.rst = false) : s.heldInReset = s := by
  simp [State.heldInReset, h]

theorem State.heldInReset_of_asserted {s : State} (h : s.rst = true) : s.heldInReset = s.withBlock Block.reset := by
  simp [State.heldInReset, h]

end Sys2Proof.Machine
end

