-- ==== Sys2Proof/Laws/Ops.lean ====
section
/-! SUPPORT. What each shared operation, each instruction and each completion can do, said once: the lemmas that later
proofs cite instead of unfolding. -/

namespace Sys2Proof.Machine

/-! ### Shared operations -/

theorem readRegister_eq (v : Word32) (s : State) : readRegister v s = .next (s.answer (.word v)) := rfl

theorem writeIgnored_eq (s : State) : writeIgnored s = .next s := rfl

theorem writeFrozen_of_busy (f : Block → Block) {s : State} (h : s.block.status.busy = true) :
    writeFrozen f s = .next s := by
  simp [writeFrozen, h]

theorem writeFrozen_of_idle (f : Block → Block) {s : State} (h : s.block.status.busy = false) :
    writeFrozen f s = .next (s.withBlock (f s.block)) := by
  simp [writeFrozen, h]

@[simp] theorem AddrRange.contains_iff (r : AddrRange) (a : Nat) :
    r.contains a = true ↔ r.first ≤ a ∧ a < r.first + r.length :=
  decide_eq_true_iff

/-- Two ranges overlap when they share an address. -/
theorem AddrRange.overlaps_iff (r q : AddrRange) :
    r.overlaps q = true ↔ ∃ a, r.contains a = true ∧ q.contains a = true := by
  simp only [AddrRange.overlaps, decide_eq_true_eq, AddrRange.contains_iff]
  exact ⟨fun h => ⟨max r.first q.first, by omega⟩, fun ⟨a, h⟩ => by omega⟩

theorem BusAccess.reaches_iff (a : BusAccess) (p : Platform) :
    a.reaches p = true ↔ p.base ≤ a.addr ∧ a.addr < p.base + 64 :=
  decide_eq_true_iff

theorem BusAccess.isWord_iff (a : BusAccess) (p : Platform) :
    a.isWord p = true ↔ a.bytes = 4 ∧ (a.addr - p.base) % 4 = 0 :=
  decide_eq_true_iff

/-! ### Register transactions -/

/-- The ways a register transaction can change the block. -/
inductive BlockChange (b : Block) (m : Memory) : Instr → Block → Prop where
  | same (i : Instr) : BlockChange b m i b
  | ctrl (data : Word32) : BlockChange b m (.wrCtrl data)
      { b with ctrl := { (if b.status.busy then b.ctrl else ctrlOfData data) with ien := (ctrlOfData data).ien } }
  | clear (data : Word32) : BlockChange b m (.wrStatus data) (b.recoverByWrite data)
  | srcAddr (data : Word32) (h : b.status.busy = false) : BlockChange b m (.wrSrcAddr data) { b with srcAddr := data }
  | dstAddr (data : Word32) (h : b.status.busy = false) : BlockChange b m (.wrDstAddr data) { b with dstAddr := data }
  | srcWidth (data : Word32) (h : b.status.busy = false) :
      BlockChange b m (.wrSrcWidth data) { b with srcWidth := data }
  | srcHeight (data : Word32) (h : b.status.busy = false) :
      BlockChange b m (.wrSrcHeight data) { b with srcHeight := data }
  | rejected (data : Word32) (h : b.status.busy = false) (hc : b.recoverByStart.startCheck ≠ codeNone) :
      BlockChange b m (.wrCmdStart data) (b.recoverByStart.enterError b.recoverByStart.startCheck)
  | started (data : Word32) (h : b.status.busy = false) (hc : b.recoverByStart.startCheck = codeNone) :
      BlockChange b m (.wrCmdStart data)
        { b.recoverByStart with
          snap := b.recoverByStart.sample m, raced := false, status := b.recoverByStart.status.begun }

theorem writeFrozen_cases {f : Block → Block} {i : Instr} (s : State)
    (hf : s.block.status.busy = false → BlockChange s.block s.mem i (f s.block)) :
    ∃ b r, BlockChange s.block s.mem i b ∧ writeFrozen f s = .next ((s.withBlock b).answer r) := by
  cases hb : s.block.status.busy
  · exact ⟨f s.block, s.resp, hf hb, writeFrozen_of_idle f hb⟩
  · exact ⟨s.block, s.resp, .same i, writeFrozen_of_busy f hb⟩

/-- Every register transaction answers a next state, which differs from the old one in the block, by one of the changes
above, and in the answer only. -/
theorem exec_cases (i : Instr) (s : State) :
    ∃ b r, BlockChange s.block s.mem i b ∧ exec i s = .next ((s.withBlock b).answer r) := by
  cases i with
  | rdCtrl => exact ⟨s.block, _, .same _, rfl⟩
  | rdStatus => exact ⟨s.block, _, .same _, rfl⟩
  | rdCmd => exact ⟨s.block, _, .same _, rfl⟩
  | rdSrcAddr => exact ⟨s.block, _, .same _, rfl⟩
  | rdDstAddr => exact ⟨s.block, _, .same _, rfl⟩
  | rdSrcWidth => exact ⟨s.block, _, .same _, rfl⟩
  | rdSrcHeight => exact ⟨s.block, _, .same _, rfl⟩
  | rdOutWidth => exact ⟨s.block, _, .same _, rfl⟩
  | rdOutHeight => exact ⟨s.block, _, .same _, rfl⟩
  | rdCfaPattern => exact ⟨s.block, _, .same _, rfl⟩
  | rdRsvdA woff => exact ⟨s.block, _, .same _, rfl⟩
  | rdRsvdB woff => exact ⟨s.block, _, .same _, rfl⟩
  | wrCtrl data => exact ⟨_, s.resp, .ctrl data, rfl⟩
  | wrStatus data => exact ⟨_, s.resp, .clear data, rfl⟩
  | wrCmdStart data =>
    cases hb : s.block.status.busy with
    | true => exact ⟨s.block, s.resp, .same _, by simp [exec, execWrCmdStart, hb]; rfl⟩
    | false =>
      by_cases hc : s.block.recoverByStart.startCheck = codeNone
      · exact ⟨_, s.resp, .started data hb hc, by simp [exec, execWrCmdStart, hb, hc]; rfl⟩
      · exact ⟨_, s.resp, .rejected data hb hc, by simp [exec, execWrCmdStart, hb, hc]; rfl⟩
  | wrCmdNop data => exact ⟨s.block, s.resp, .same _, rfl⟩
  | wrSrcAddr data => exact writeFrozen_cases (f := fun b => { b with srcAddr := data }) s (.srcAddr data)
  | wrDstAddr data => exact writeFrozen_cases (f := fun b => { b with dstAddr := data }) s (.dstAddr data)
  | wrSrcWidth data => exact writeFrozen_cases (f := fun b => { b with srcWidth := data }) s (.srcWidth data)
  | wrSrcHeight data => exact writeFrozen_cases (f := fun b => { b with srcHeight := data }) s (.srcHeight data)
  | wrOutWidth data => exact ⟨s.block, s.resp, .same _, rfl⟩
  | wrOutHeight data => exact ⟨s.block, s.resp, .same _, rfl⟩
  | wrCfaPattern data => exact ⟨s.block, s.resp, .same _, rfl⟩
  | wrRsvdA woff data => exact ⟨s.block, s.resp, .same _, rfl⟩
  | wrRsvdB woff data => exact ⟨s.block, s.resp, .same _, rfl⟩

/-- What `runCommand` can do: the transaction, or nothing to a write while reset is asserted. -/
theorem runCommand_cases (w : CommandWord) (s : State) :
    ∃ b r, BlockChange s.block s.mem (decodeWord w) b ∧ runCommand w s = .next ((s.withBlock b).answer r) := by
  unfold runCommand
  split
  · exact ⟨s.block, s.resp, .same _, rfl⟩
  · exact exec_cases _ s

/-- What a bus access can do: a command word's transaction, or nothing but an answer. -/
theorem runBusAccess_cases (a : BusAccess) (s : State) :
    ∃ b r, BlockChange s.block s.mem (decodeWord (a.commandWord s.platform)) b ∧
      runBusAccess a s = .next ((s.withBlock b).answer r) := by
  unfold runBusAccess
  split
  · exact ⟨s.block, s.resp, .same _, rfl⟩
  · split
    · exact ⟨s.block, .busError, .same _, rfl⟩
    · exact runCommand_cases _ s

/-! ### Completion and reset -/

theorem busErrorCode_cases (re we choice : Bool) :
    busErrorCode re we choice = codeBusRead ∨ busErrorCode re we choice = codeBusWrite := by
  cases re <;> cases we <;> cases choice <;> simp [busErrorCode]

/-! What a completion leaves, field by field. -/

theorem completeWithError_mem (s : State) : (completeWithError s).mem =
    s.mem.fillAny s.block.dstAddr.toNat s.block.dstSize (s.draws + 1) fun a => s.platform.busErr a .write := rfl

@[simp] theorem completeWithError_block (s : State) : (completeWithError s).block =
    s.block.enterError (busErrorCode s.readError s.writeError (Config.freeChoice s.draws)) := rfl

@[simp] theorem completeWithError_platform (s : State) : (completeWithError s).platform = s.platform := rfl

@[simp] theorem completeWithError_rst (s : State) : (completeWithError s).rst = s.rst := rfl

@[simp] theorem completeWithError_agenda (s : State) : (completeWithError s).agenda = s.agenda := rfl

@[simp] theorem completeWithError_resp (s : State) : (completeWithError s).resp = s.resp := rfl

theorem completeDone_mem (s : State) : (completeDone s).mem =
    if s.block.raced || s.touchesDevice then
      s.mem.fillAny s.block.dstAddr.toNat s.block.dstSize s.draws fun _ => false
    else s.block.writeGrid s.mem := by
  unfold completeDone
  split <;> rfl

@[simp] theorem completeDone_block (s : State) :
    (completeDone s).block = { s.block with status := s.block.status.ended } := rfl

@[simp] theorem completeDone_platform (s : State) : (completeDone s).platform = s.platform := by
  unfold completeDone
  split <;> rfl

@[simp] theorem completeDone_rst (s : State) : (completeDone s).rst = s.rst := by
  unfold completeDone
  split <;> rfl

@[simp] theorem completeDone_agenda (s : State) : (completeDone s).agenda = s.agenda := by
  unfold completeDone
  split <;> rfl

@[simp] theorem completeDone_resp (s : State) : (completeDone s).resp = s.resp := by
  unfold completeDone
  split <;> rfl

/-- The three ways a completion goes. -/
theorem complete_cases (s : State) :
    (¬ s.block.dstFits ∧ complete s = .fault .outsideMemory) ∨
      (s.block.dstFits ∧ (s.readError || s.writeError) = true ∧ complete s = .next (completeWithError s)) ∨
      (s.block.dstFits ∧ (s.readError || s.writeError) = false ∧ complete s = .next (completeDone s)) := by
  by_cases hf : s.block.dstFits
  · cases he : (s.readError || s.writeError)
    · exact .inr (.inr ⟨hf, rfl, by simp [complete, hf, he]⟩)
    · exact .inr (.inl ⟨hf, rfl, by simp [complete, hf, he]⟩)
  · exact .inl ⟨hf, by simp [complete, hf]⟩

/-- The three ways a reset goes. -/
theorem resetBlock_cases (s : State) :
    (s.block.status.busy = false ∧ resetBlock s = .next (s.withBlock Block.reset)) ∨
      (s.block.status.busy = true ∧ ¬ s.block.dstFits ∧ resetBlock s = .fault .outsideMemory) ∨
      (s.block.status.busy = true ∧ s.block.dstFits ∧
        resetBlock s = .next ((s.fillDestination fun _ => false).withBlock Block.reset)) := by
  cases hb : s.block.status.busy
  · exact .inl ⟨rfl, by simp [resetBlock, hb]⟩
  · by_cases hf : s.block.dstFits
    · exact .inr (.inr ⟨rfl, hf, by simp [resetBlock, hb, hf]⟩)
    · exact .inr (.inl ⟨rfl, hf, by simp [resetBlock, hb, hf]⟩)

end Sys2Proof.Machine
end

