-- ==== Sys2Proof/Laws/PerInstr.lean ====
section
/-! SUPPORT. The family RowMatch: every well-formed instruction's encoding is a word of the opcode-table row with its
mnemonic (30_encoding R85). One lemma per constructor. -/

namespace Sys2Proof.Laws.RowMatch

/-- The encoding matches the table row of the instruction's mnemonic. -/
def Statement (i : Instr) : Prop :=
  i.WellFormed → ∃ r ∈ opcodeTable, r.mnemonic = i.mnemonic ∧ r.selects (encode i) = true

/-- A word is one of a row's when its RW and WOFF bits and its DATA bits are, each under its part of the mask. -/
theorem selects_of_parts {r : OpcodeRow} {hi m5 v5 : BitVec 5} {data m32 v32 : Word32}
    (hm : r.mask = (m5 ++ m32 : BitVec 37)) (hv : r.value = (v5 ++ v32 : BitVec 37))
    (h5 : hi &&& m5 = v5) (h32 : data &&& m32 = v32) : r.selects (hi ++ data : BitVec 37) = true := by
  simp only [OpcodeRow.selects, hm, hv, beq_iff_eq]
  rw [BitVec.and_append, h5, h32]

/-- The low bit of DATA tells the two CMD rows apart. -/
theorem and_one_of_bit (data : Word32) (b : Bool) (h : data.getLsbD 0 = b) :
    data &&& 1#32 = (BitVec.ofBool b).setWidth 32 := by
  apply BitVec.eq_of_getLsbD_eq
  intro j hj
  rw [BitVec.getLsbD_and, BitVec.getLsbD_one, BitVec.getLsbD_setWidth, BitVec.getLsbD_ofBool]
  rcases Nat.eq_zero_or_pos j with rfl | hj0
  · rw [h]; cases b <;> rfl
  · have : j ≠ 0 := by omega
    simp [this]

theorem rdCtrl : Statement .rdCtrl := by unfold Statement; decide

theorem rdStatus : Statement .rdStatus := by unfold Statement; decide

theorem rdCmd : Statement .rdCmd := by unfold Statement; decide

theorem rdSrcAddr : Statement .rdSrcAddr := by unfold Statement; decide

theorem rdDstAddr : Statement .rdDstAddr := by unfold Statement; decide

theorem rdSrcWidth : Statement .rdSrcWidth := by unfold Statement; decide

theorem rdSrcHeight : Statement .rdSrcHeight := by unfold Statement; decide

theorem rdOutWidth : Statement .rdOutWidth := by unfold Statement; decide

theorem rdOutHeight : Statement .rdOutHeight := by unfold Statement; decide

theorem rdCfaPattern : Statement .rdCfaPattern := by unfold Statement; decide

theorem rdRsvdA (woff : Woff) : Statement (.rdRsvdA woff) := by
  unfold Statement; revert woff; decide

theorem rdRsvdB (woff : Woff) : Statement (.rdRsvdB woff) := by
  unfold Statement; revert woff; decide

theorem wrCtrl (data : Word32) : Statement (.wrCtrl data) := fun _ =>
  ⟨⟨"WR_CTRL", 0x1F00000000#37, 0x1000000000#37⟩, by simp [opcodeTable], rfl, selects_of_parts (hi := 16#5)
    (m5 := 31#5) (v5 := 16#5) (m32 := 0#32) (v32 := 0#32) (by decide) (by decide) (by decide) (BitVec.and_zero)⟩

theorem wrStatus (data : Word32) : Statement (.wrStatus data) := fun _ =>
  ⟨⟨"WR_STATUS", 0x1F00000000#37, 0x1100000000#37⟩, by simp [opcodeTable], rfl, selects_of_parts (hi := 17#5)
    (m5 := 31#5) (v5 := 17#5) (m32 := 0#32) (v32 := 0#32) (by decide) (by decide) (by decide) (BitVec.and_zero)⟩

theorem wrCmdStart (data : Word32) : Statement (.wrCmdStart data) := fun h =>
  ⟨⟨"WR_CMD_START", 0x1F00000001#37, 0x1200000001#37⟩, by simp [opcodeTable], rfl, selects_of_parts (hi := 18#5)
    (m5 := 31#5) (v5 := 18#5) (m32 := 1#32) (v32 := (BitVec.ofBool true).setWidth 32) (by decide) (by decide) (by decide) (and_one_of_bit data true h)⟩

theorem wrCmdNop (data : Word32) : Statement (.wrCmdNop data) := fun h =>
  ⟨⟨"WR_CMD_NOP", 0x1F00000001#37, 0x1200000000#37⟩, by simp [opcodeTable], rfl, selects_of_parts (hi := 18#5)
    (m5 := 31#5) (v5 := 18#5) (m32 := 1#32) (v32 := (BitVec.ofBool false).setWidth 32) (by decide) (by decide) (by decide) (and_one_of_bit data false (by simpa [Instr.WellFormed, Instr.wellFormed] using h))⟩

theorem wrSrcAddr (data : Word32) : Statement (.wrSrcAddr data) := fun _ =>
  ⟨⟨"WR_SRC_ADDR", 0x1F00000000#37, 0x1300000000#37⟩, by simp [opcodeTable], rfl, selects_of_parts (hi := 19#5)
    (m5 := 31#5) (v5 := 19#5) (m32 := 0#32) (v32 := 0#32) (by decide) (by decide) (by decide) (BitVec.and_zero)⟩

theorem wrDstAddr (data : Word32) : Statement (.wrDstAddr data) := fun _ =>
  ⟨⟨"WR_DST_ADDR", 0x1F00000000#37, 0x1400000000#37⟩, by simp [opcodeTable], rfl, selects_of_parts (hi := 20#5)
    (m5 := 31#5) (v5 := 20#5) (m32 := 0#32) (v32 := 0#32) (by decide) (by decide) (by decide) (BitVec.and_zero)⟩

theorem wrSrcWidth (data : Word32) : Statement (.wrSrcWidth data) := fun _ =>
  ⟨⟨"WR_SRC_WIDTH", 0x1F00000000#37, 0x1500000000#37⟩, by simp [opcodeTable], rfl, selects_of_parts (hi := 21#5)
    (m5 := 31#5) (v5 := 21#5) (m32 := 0#32) (v32 := 0#32) (by decide) (by decide) (by decide) (BitVec.and_zero)⟩

theorem wrSrcHeight (data : Word32) : Statement (.wrSrcHeight data) := fun _ =>
  ⟨⟨"WR_SRC_HEIGHT", 0x1F00000000#37, 0x1600000000#37⟩, by simp [opcodeTable], rfl, selects_of_parts (hi := 22#5)
    (m5 := 31#5) (v5 := 22#5) (m32 := 0#32) (v32 := 0#32) (by decide) (by decide) (by decide) (BitVec.and_zero)⟩

theorem wrOutWidth (data : Word32) : Statement (.wrOutWidth data) := fun _ =>
  ⟨⟨"WR_OUT_WIDTH", 0x1F00000000#37, 0x1700000000#37⟩, by simp [opcodeTable], rfl, selects_of_parts (hi := 23#5)
    (m5 := 31#5) (v5 := 23#5) (m32 := 0#32) (v32 := 0#32) (by decide) (by decide) (by decide) (BitVec.and_zero)⟩

theorem wrOutHeight (data : Word32) : Statement (.wrOutHeight data) := fun _ =>
  ⟨⟨"WR_OUT_HEIGHT", 0x1F00000000#37, 0x1800000000#37⟩, by simp [opcodeTable], rfl, selects_of_parts (hi := 24#5)
    (m5 := 31#5) (v5 := 24#5) (m32 := 0#32) (v32 := 0#32) (by decide) (by decide) (by decide) (BitVec.and_zero)⟩

theorem wrCfaPattern (data : Word32) : Statement (.wrCfaPattern data) := fun _ =>
  ⟨⟨"WR_CFA_PATTERN", 0x1F00000000#37, 0x1900000000#37⟩, by simp [opcodeTable], rfl, selects_of_parts (hi := 25#5)
    (m5 := 31#5) (v5 := 25#5) (m32 := 0#32) (v32 := 0#32) (by decide) (by decide) (by decide) (BitVec.and_zero)⟩

theorem wrRsvdA (woff : Woff) (data : Word32) : Statement (.wrRsvdA woff data) := by
  intro (h : Woff.isRsvdA woff = true)
  refine ⟨⟨"WR_RSVD_A", 0x1E00000000#37, 0x1A00000000#37⟩, by simp [opcodeTable], rfl, selects_of_parts (hi := 1#1 ++ woff)
    (m5 := 30#5) (v5 := 26#5) (m32 := 0#32) (v32 := 0#32) (by decide) (by decide) ?_ (BitVec.and_zero)⟩
  revert woff; decide

theorem wrRsvdB (woff : Woff) (data : Word32) : Statement (.wrRsvdB woff data) := by
  intro (h : Woff.isRsvdB woff = true)
  refine ⟨⟨"WR_RSVD_B", 0x1C00000000#37, 0x1C00000000#37⟩, by simp [opcodeTable], rfl, selects_of_parts (hi := 1#1 ++ woff)
    (m5 := 28#5) (v5 := 28#5) (m32 := 0#32) (v32 := 0#32) (by decide) (by decide) ?_ (BitVec.and_zero)⟩
  revert woff; decide

end Sys2Proof.Laws.RowMatch
end

