-- ==== Sys2Proof/Laws/Step.lean ====
section
/-! SUPPORT. What one step can do, said once: `step_cases`. -/

namespace Sys2Proof.Machine

/-- A state after its move is taken from the agenda, with no answer yet. -/
abbrev State.taking (s : State) (rest : List Move) : State := { s with agenda := rest, resp := .none }

/-- The moves still to come after this step: nothing was to come, or one move is taken. -/
abbrev State.AgendaRest (s : State) (rest : List Move) : Prop :=
  (s.agenda = [] ∧ rest = []) ∨ ∃ m, s.agenda = m :: rest

/-- Everything a step can do to the state `s`, whose block is at its reset values while reset is asserted. -/
inductive StepEffect (s : State) : State → Prop where
  /-- Nothing to come, and the block is idle. -/
  | stays (ha : s.agenda = []) (hb : s.block.status.busy = false) : StepEffect s s
  /-- A register transaction, or a bus access of any kind: the block changes by its instruction. -/
  | transaction (m : Move) (rest : List Move) (w : CommandWord) (b : Block) (r : Response)
      (ha : s.agenda = m :: rest)
      (hm : m = .command w ∨ ∃ a : BusAccess, m = .busAccess a ∧ w = a.commandWord s.platform)
      (hb : BlockChange s.block s.mem (decodeWord w) b) (hr : s.rst = true → b = Block.reset) :
      StepEffect s { s with block := b, agenda := rest, resp := r }
  /-- Another agent's read of a byte: at most an answer and a draw. -/
  | read (m : Move) (rest : List Move) (r : Response) (n : Nat) (ha : s.agenda = m :: rest)
      (hm : ∃ addr, m = .memRead addr ∨ m = .memReadStale addr) :
      StepEffect s { s with agenda := rest, resp := r, draws := n }
  /-- Another agent's write of a byte. -/
  | store (addr : Word32) (v : Byte) (m : Move) (rest : List Move) (n : Nat) (ha : s.agenda = m :: rest)
      (hm : m = .memWrite addr v ∨ m = .memWriteUnseen addr) :
      StepEffect s (storeByOther addr.toNat v { s with agenda := rest, resp := .none, draws := n })
  /-- Reset is released. -/
  | release (rest : List Move) (ha : s.agenda = .resetInput false :: rest) :
      StepEffect s { s with agenda := rest, resp := .none, rst := false }
  /-- Reset is asserted on an idle block. -/
  | resetIdle (rest : List Move) (ha : s.agenda = .resetInput true :: rest) (hb : s.block.status.busy = false) :
      StepEffect s { s with agenda := rest, resp := .none, rst := true, block := Block.reset }
  /-- Reset is asserted on a Busy block. -/
  | resetBusy (rest : List Move) (ha : s.agenda = .resetInput true :: rest) (hb : s.block.status.busy = true)
      (hf : s.block.dstFits) :
      StepEffect s { s with
        agenda := rest, resp := .none, rst := true, block := Block.reset,
        mem := s.mem.fillAny s.block.dstAddr.toNat s.block.dstSize s.draws fun _ => false,
        draws := s.draws + s.block.dstSize }
  /-- The engine completes with a bus error. -/
  | failed (rest : List Move) (ha : s.AgendaRest rest) (hb : s.block.status.busy = true) (hf : s.block.dstFits)
      (he : (s.readError || s.writeError) = true) : StepEffect s (completeWithError (s.taking rest))
  /-- The engine completes without error. -/
  | ended (rest : List Move) (ha : s.AgendaRest rest) (hb : s.block.status.busy = true) (hf : s.block.dstFits)
      (he : (s.readError || s.writeError) = false) : StepEffect s (completeDone (s.taking rest))
  /-- The engine's turn on an idle block. -/
  | noTurn (rest : List Move) (ha : s.agenda = .engine :: rest) (hb : s.block.status.busy = false) :
      StepEffect s (s.taking rest)

/-- A read transaction changes no block. -/
theorem BlockChange.of_read {b c : Block} {m : Memory} {w : CommandWord} (h : BlockChange b m (decodeWord w) c)
    (hw : w.isWrite = false) : c = b := by
  have key : ∀ i, i = decodeRead w.woff → ∀ c, BlockChange b m i c → c = b := by
    intro i hi c h
    rcases Woff.cases16 w.woff with e | e | e | e | e | e | e | e | e | e | e | e | e | e | e | e <;>
      rw [e] at hi <;> subst hi <;> cases h <;> rfl
  exact key _ (by simp [decodeWord, hw]) c h

/-- A transaction while reset is asserted leaves a block that is at its reset values there. -/
theorem runCommand_held (w : CommandWord) (s : State) (hr : s.rst = true → s.block = Block.reset) :
    ∃ b r, BlockChange s.block s.mem (decodeWord w) b ∧ runCommand w s = .next ((s.withBlock b).answer r) ∧
      (s.rst = true → b = Block.reset) := by
  by_cases h : s.rst = true ∧ w.isWrite = true
  · exact ⟨s.block, s.resp, .same _, by simp [runCommand, h]; rfl, hr⟩
  · obtain ⟨b, r, hb, e⟩ := runCommand_cases w s
    exact ⟨b, r, hb, e, fun h1 => (hb.of_read (by simpa [h1] using h)).trans (hr h1)⟩

theorem runBusAccess_held (a : BusAccess) (s : State) (hr : s.rst = true → s.block = Block.reset) :
    ∃ b r, BlockChange s.block s.mem (decodeWord (a.commandWord s.platform)) b ∧
      runBusAccess a s = .next ((s.withBlock b).answer r) ∧ (s.rst = true → b = Block.reset) := by
  unfold runBusAccess
  split
  · exact ⟨s.block, s.resp, .same _, rfl, hr⟩
  · split
    · exact ⟨s.block, .busError, .same _, rfl, hr⟩
    · exact runCommand_held _ s hr

theorem complete_effect {s t : State} {rest : List Move} (ha : s.AgendaRest rest) (hb : s.block.status.busy = true)
    (h : complete (s.taking rest) = .next t) : StepEffect s t := by
  rcases complete_cases (s.taking rest) with ⟨_, e⟩ | ⟨hf, he, e⟩ | ⟨hf, he, e⟩ <;> rw [e] at h <;> cases h
  · exact .failed rest ha hb hf he
  · exact .ended rest ha hb hf he

theorem nextMove_cases {s t : State} (hr : s.rst = true → s.block = Block.reset) (h : nextMove s = .next t) :
    StepEffect s t := by
  unfold nextMove at h
  split at h
  next ha =>
    split at h
    next hb => exact complete_effect (rest := s.agenda) (.inl ⟨ha, ha⟩) hb h
    next hb => cases h; exact .stays ha (by simpa using hb)
  next m rest ha =>
    cases m with
    | command w =>
      obtain ⟨b, r, h1, h2, h3⟩ := runCommand_held w (s.taking rest) hr
      cases h2.symm.trans h
      exact .transaction _ rest w b r ha (.inl rfl) h1 h3
    | busAccess a =>
      obtain ⟨b, r, h1, h2, h3⟩ := runBusAccess_held a (s.taking rest) hr
      cases h2.symm.trans h
      exact .transaction _ rest _ b r ha (.inr ⟨a, rfl, rfl⟩) h1 h3
    | memRead addr =>
      simp only [runMove, hostRead] at h
      split at h <;> cases h <;> exact .read _ rest _ _ ha ⟨addr, .inl rfl⟩
    | memWrite addr v => cases h; exact .store addr v _ rest _ ha (.inl rfl)
    | memReadStale addr => cases h; exact .read _ rest _ _ ha ⟨addr, .inr rfl⟩
    | memWriteUnseen addr => cases h; exact .store addr _ _ rest _ ha (.inr rfl)
    | resetInput asserted =>
      cases asserted with
      | false => cases h; exact .release rest ha
      | true =>
        have h' : resetBlock { s with agenda := rest, resp := .none, rst := true } = .next t := h
        rcases resetBlock_cases { s with agenda := rest, resp := .none, rst := true } with
            ⟨hb, e⟩ | ⟨_, _, e⟩ | ⟨hb, hf, e⟩ <;> rw [e] at h' <;> cases h'
        · exact .resetIdle rest ha hb
        · exact .resetBusy rest ha hb hf
    | engine =>
      simp only [runMove, engineTurn] at h
      split at h
      next hb => exact complete_effect (.inr ⟨_, ha⟩) hb h
      next hb => cases h; exact .noTurn rest ha (by simpa using hb)

/-- What a step can do, from any state: one of the effects above on the state whose block is held in reset while reset
is asserted. -/
theorem step_cases {s t : State} (h : step s = .next t) : StepEffect s.heldInReset t := by
  refine nextMove_cases (fun hr => ?_) h
  cases hs : s.rst
  · rw [State.heldInReset_of_released hs, hs] at hr; cases hr
  · rw [State.heldInReset_of_asserted hs]; rfl

/-- The block is already at its reset values while reset is asserted: nothing is left to hold. -/
theorem State.heldInReset_eq {s : State} (h : s.rst = true → s.block = Block.reset) : s.heldInReset = s := by
  cases hs : s.rst
  · exact State.heldInReset_of_released hs
  · rw [State.heldInReset_of_asserted hs, ← h hs]; rfl

/-! ### Runs and the premises of claims -/

theorem run_zero (s : State) : run 0 s = .next s := rfl

theorem run_succ {s t : State} (k : Nat) (h : step s = .next t) : run (k + 1) s = run k t := by
  have one : ∀ (M : Host.Core) (u v : M.State), M.step u = .next v → M.run (k + 1) u = M.run k v := by
    intro M u v e
    rw [Host.Core.run.eq_def]
    simp only [e]
  exact one Sys2Proof.core s t h

/-- No bus error in RS and WS, as the completion tests it. -/
theorem State.noBusError_iff (s : State) : s.NoBusError ↔ (s.readError || s.writeError) = false := by
  simp [State.NoBusError, State.readError, State.writeError]

end Sys2Proof.Machine
end

