-- ==== Sys2Proof/Tests/Slice0.lean ====
section
/-! SUPPORT. The model's own tests: ill-formed terms refused, words written out from the encoding, one step each on small
states with results from spec/95_test_vectors.md and the rules' examples, and a witness for the hypotheses of each
obligation that has some. -/

namespace Sys2Proof.Tests

open Sys2Proof.Machine

/-! ### Helpers -/

/-- The next state, if there is one. -/
def nextOf : Result → Option State
  | .next s => some s
  | _ => none

/-- The answer in the next state. -/
def respOf (r : Result) : Option Response := (nextOf r).map State.resp

/-- The block in the next state. -/
def blockOf (r : Result) : Option Block := (nextOf r).map State.block

/-- What STATUS reads as in the next state. -/
def statusOf (r : Result) : Option Word32 := (blockOf r).map fun b => b.status.word

/-- The bytes from `a` on in the next state. -/
def bytesOf (r : Result) (a n : Nat) : Option (List Byte) :=
  (nextOf r).map fun s => (List.range n).map fun k => s.mem.read (a + k)

/-- The state after reset with a changed block. -/
def withB (f : Block → Block) : State := { State.reset with block := f Block.reset }

/-- The STATUS fields of a word (10_state R29 to R32). -/
def statusFields (w : Word32) : Status :=
  { busy := w.getLsbD 0, done := w.getLsbD 1, err := w.getLsbD 2, errcode := w.extractLsb' 4 4 }

/-- An idle or Busy block with the given STATUS word. -/
def withStatus (w : Word32) : State := withB fun b => { b with status := statusFields w }

/-- 8-bit RGB, RGGB, with the given addresses and dimensions. -/
def config (src dst w h : Word32) : Block :=
  { Block.reset with srcAddr := src, dstAddr := dst, srcWidth := w, srcHeight := h }

/-- The configuration of program P1. -/
def blockP1 : Block := config 0x1000#32 0x2000#32 2#32 2#32

/-- The source bytes of program P1. -/
def memP1 : Memory :=
  [ (0x1000, 0x10#8), (0x1001, 0x11#8), (0x1002, 0x12#8), (0x1003, 0x20#8), (0x1004, 0x21#8), (0x1005, 0x22#8),
    (0x1006, 0x30#8), (0x1007, 0x31#8), (0x1008, 0x32#8), (0x1009, 0x40#8), (0x100A, 0x41#8), (0x100B, 0x42#8) ]

/-- Program P1 before its START. -/
def idleP1 : State := { State.reset with block := blockP1, mem := memP1 }

/-- Program P1 after its START. -/
def busyP1 : State := { idleP1 with block := { blockP1 with
  snap := [0x1000#16, 0x2100#16, 0x3100#16, 0x4200#16]
  status := { busy := true, done := false, err := false, errcode := 0#4 } } }

/-- A state with a read error on the first byte of RS of program P1. -/
def readFault (s : State) : State :=
  { s with platform := { s.platform with busErrs := ⟨.read, ⟨0x1000, 1⟩⟩ :: s.platform.busErrs } }

/-- A state with a write error on the last byte of WS of program P1. -/
def writeFault (s : State) : State :=
  { s with platform := { s.platform with busErrs := ⟨.write, ⟨0x2007, 1⟩⟩ :: s.platform.busErrs } }

/-- The state with the given moves to come. -/
def coming (s : State) (moves : List Move) : State := { s with agenda := moves }

/-- A platform with the register window at 0x40000000. -/
def placed (s : State) : State := { s with platform := { s.platform with base := 0x40000000 } }

/-! ### Ill-formed terms are refused (30_encoding R85) -/

theorem test_wf_rd_rsvd_a : ¬ (Instr.rdRsvdA 12#4).WellFormed ∧ ¬ (Instr.rdRsvdA 9#4).WellFormed := by decide
theorem test_wf_rd_rsvd_b : ¬ (Instr.rdRsvdB 11#4).WellFormed ∧ ¬ (Instr.rdRsvdB 3#4).WellFormed := by decide
theorem test_wf_wr_rsvd_a : ¬ (Instr.wrRsvdA 0#4 5#32).WellFormed ∧ ¬ (Instr.wrRsvdA 15#4 0#32).WellFormed := by decide
theorem test_wf_wr_rsvd_b : ¬ (Instr.wrRsvdB 10#4 5#32).WellFormed ∧ ¬ (Instr.wrRsvdB 2#4 1#32).WellFormed := by decide
theorem test_wf_start_needs_bit0 : ¬ (Instr.wrCmdStart 0xFFFFFFFE#32).WellFormed := by decide
theorem test_wf_nop_needs_no_bit0 : ¬ (Instr.wrCmdNop 1#32).WellFormed := by decide

/-! ### One word per constructor, from the bit layout of 30_encoding R80 and the rows of R85 -/

theorem test_decode_rdCtrl : decodeWord 0x0000000000#37 = .rdCtrl := by decide
theorem test_decode_rdStatus : decodeWord 0x0100000000#37 = .rdStatus := by decide
theorem test_decode_rdCmd : decodeWord 0x0200000000#37 = .rdCmd := by decide
theorem test_decode_rdSrcAddr : decodeWord 0x0300000000#37 = .rdSrcAddr := by decide
theorem test_decode_rdDstAddr : decodeWord 0x0400000000#37 = .rdDstAddr := by decide
theorem test_decode_rdSrcWidth : decodeWord 0x0500000000#37 = .rdSrcWidth := by decide
theorem test_decode_rdSrcHeight : decodeWord 0x06DEADBEEF#37 = .rdSrcHeight := by decide
theorem test_decode_rdOutWidth : decodeWord 0x0700000000#37 = .rdOutWidth := by decide
theorem test_decode_rdOutHeight : decodeWord 0x0800000000#37 = .rdOutHeight := by decide
theorem test_decode_rdCfaPattern : decodeWord 0x0900000000#37 = .rdCfaPattern := by decide
theorem test_decode_rdRsvdA : decodeWord 0x0A00000000#37 = .rdRsvdA 10#4 ∧
    decodeWord 0x0B00000000#37 = .rdRsvdA 11#4 := by decide
theorem test_decode_rdRsvdB : decodeWord 0x0C00000000#37 = .rdRsvdB 12#4 ∧
    decodeWord 0x0F00000000#37 = .rdRsvdB 15#4 := by decide
theorem test_decode_wrCtrl : decodeWord 0x10FFFFFFFF#37 = .wrCtrl 0xFFFFFFFF#32 := by decide
theorem test_decode_wrStatus : decodeWord 0x1100000006#37 = .wrStatus 6#32 := by decide
theorem test_decode_wrCmdStart : decodeWord 0x1280000001#37 = .wrCmdStart 0x80000001#32 := by decide
theorem test_decode_wrCmdNop : decodeWord 0x12FFFFFFFE#37 = .wrCmdNop 0xFFFFFFFE#32 := by decide
theorem test_decode_wrSrcAddr : decodeWord 0x1300001001#37 = .wrSrcAddr 0x1001#32 := by decide
theorem test_decode_wrDstAddr : decodeWord 0x14FFFFFFFE#37 = .wrDstAddr 0xFFFFFFFE#32 := by decide
theorem test_decode_wrSrcWidth : decodeWord 0x1500000002#37 = .wrSrcWidth 2#32 := by decide
theorem test_decode_wrSrcHeight : decodeWord 0x1600000007#37 = .wrSrcHeight 7#32 := by decide
theorem test_decode_wrOutWidth : decodeWord 0x1700000004#37 = .wrOutWidth 4#32 := by decide
theorem test_decode_wrOutHeight : decodeWord 0x1800000000#37 = .wrOutHeight 0#32 := by decide
theorem test_decode_wrCfaPattern : decodeWord 0x1900000000#37 = .wrCfaPattern 0#32 := by decide
theorem test_decode_wrRsvdA : decodeWord 0x1BFFFFFFFF#37 = .wrRsvdA 11#4 0xFFFFFFFF#32 := by decide
theorem test_decode_wrRsvdB : decodeWord 0x1CFFFFFFFF#37 = .wrRsvdB 12#4 0xFFFFFFFF#32 := by decide

theorem test_decode_table_word : decodeTableWord 40 0x1200000001 = some (.wrCmdStart 1#32) ∧
    decodeTableWord 40 0x0A00000000 = some (.rdRsvdA 10#4) := by decide

theorem test_decode_short_and_long : decodeBytes [0#8, 0#8, 0#8, 0#8] = .error .tooShort ∧
    decodeBytes [0#8, 0#8, 0#8, 0#8, 0#8, 0#8] = .error .tooLong := ⟨rfl, rfl⟩

theorem test_fetch_runs_the_word :
    (blockOf (step (State.reset.withFetchWord 40 0x1600000007))).map Block.srcHeight = some 7#32 := by decide

/-! ### Register accesses (95_test_vectors 2.1, 2.3, 2.6 and the examples of 40_register_access) -/

theorem test_ctrl_reserved_read_0 :
    (blockOf (exec (.wrCtrl 0xFFFFFFFF#32) State.reset)).map (fun b => b.ctrl.word) = some 0x1F#32 := by decide
theorem test_ctrl_write_busy :
    (blockOf (exec (.wrCtrl 0x13#32) (withStatus 1#32))).map (fun b => b.ctrl.word) = some 0x10#32 := by decide
theorem test_rd_ctrl :
    respOf (exec .rdCtrl (withB fun b => { b with ctrl := ⟨.gbrg, false, false, true⟩ })) = some (.word 0x13#32) := by
  decide
theorem test_rd_status : respOf (exec .rdStatus (withStatus 0x14#32)) = some (.word 0x14#32) := by decide
theorem test_status_clear_err : statusOf (exec (.wrStatus 4#32) (withStatus 0x34#32)) = some 0#32 := by decide
theorem test_status_no_clear_bit : statusOf (exec (.wrStatus 0xF1#32) (withStatus 0x34#32)) = some 0x34#32 ∧
    statusOf (exec (.wrStatus 4#32) (withStatus 2#32)) = some 2#32 := by decide
theorem test_rd_cmd : respOf (exec .rdCmd busyP1) = some (.word 0#32) := by decide
theorem test_cmd_nop : nextOf (exec (.wrCmdNop 2#32) busyP1) = some busyP1 := by decide
theorem test_src_addr_odd :
    (blockOf (exec (.wrSrcAddr 0x1001#32) State.reset)).map Block.srcAddr = some 0x1001#32 := by decide
theorem test_rd_src_addr : respOf (exec .rdSrcAddr idleP1) = some (.word 0x1000#32) := by decide
theorem test_dst_addr_busy :
    (blockOf (exec (.wrDstAddr 0#32) busyP1)).map Block.dstAddr = some 0x2000#32 := by decide
theorem test_rd_dst_addr : respOf (exec .rdDstAddr idleP1) = some (.word 0x2000#32) := by decide
theorem test_src_width_busy :
    (blockOf (exec (.wrSrcWidth 6#32) (withB fun b => { b with srcWidth := 4#32, status := statusFields 1#32 }))).map
      Block.srcWidth = some 4#32 := by decide
theorem test_rd_src_width : respOf (exec .rdSrcWidth (withB fun b => { b with srcWidth := 7#32 })) = some (.word 7#32) := by
  decide
theorem test_src_height :
    (blockOf (exec (.wrSrcHeight 7#32) State.reset)).map Block.srcHeight = some 7#32 := by decide
theorem test_rd_src_height :
    respOf (exec .rdSrcHeight (withB fun b => { b with srcHeight := 5#32 })) = some (.word 5#32) := by decide
theorem test_rd_out_width : respOf (exec .rdOutWidth (withB fun b => { b with srcWidth := 9#32 })) = some (.word 8#32) ∧
    respOf (exec .rdOutWidth (withB fun b => { b with srcWidth := 0xFFFFFFFF#32 })) = some (.word 0xFFFFFFFE#32) := by
  decide
theorem test_rd_out_height :
    respOf (exec .rdOutHeight (withB fun b => { b with srcWidth := 1#32, srcHeight := 5#32 })) = some (.word 4#32) := by
  decide
theorem test_rd_cfa_pattern :
    respOf (exec .rdCfaPattern (withB fun b => { b with ctrl := ⟨.bggr, true, true, true⟩ }))
      = some (.word 0x00010102#32) := by decide
theorem test_wr_out_width : nextOf (exec (.wrOutWidth 4#32) idleP1) = some idleP1 := by decide
theorem test_wr_out_height : nextOf (exec (.wrOutHeight 0#32) idleP1) = some idleP1 := by decide
theorem test_wr_cfa_pattern : nextOf (exec (.wrCfaPattern 0#32) idleP1) = some idleP1 := by decide
theorem test_rd_rsvd_a : respOf (exec (.rdRsvdA 11#4) idleP1) = some (.word 0#32) := by decide
theorem test_rd_rsvd_b : respOf (exec (.rdRsvdB 15#4) idleP1) = some (.word 0#32) := by decide
theorem test_wr_rsvd_a : nextOf (exec (.wrRsvdA 11#4 0xFFFFFFFF#32) idleP1) = some idleP1 := by decide
theorem test_wr_rsvd_b : nextOf (exec (.wrRsvdB 12#4 0xFFFFFFFF#32) idleP1) = some idleP1 := by decide

theorem test_irq_follows_ien :
    (blockOf (exec (.wrCtrl 0x10#32) (withStatus 2#32))).map Block.irq = some true ∧
    (blockOf (exec (.wrStatus 2#32) (withB fun b => { b with
      ctrl := ⟨.rggb, false, false, true⟩, status := statusFields 2#32 }))).map Block.irq = some false := by decide

/-! ### START and StartCheck (95_test_vectors 2.5, 2.7) -/

theorem test_start_after_reset : statusOf (exec (.wrCmdStart 1#32) State.reset) = some 1#32 := by decide
theorem test_start_clears_done : statusOf (exec (.wrCmdStart 1#32) (withStatus 2#32)) = some 1#32 := by decide

theorem test_check_source_range : (config 0xFFFFFFF4#32 0#32 2#32 2#32).startCheck = 0#4 ∧
    (config 0xFFFFFFF5#32 0#32 2#32 2#32).startCheck = 1#4 ∧
    (config 0xFFFFFFFF#32 0xFFFFFFFF#32 2#32 2#32).startCheck = 1#4 ∧
    (config 0xFFFFFFFF#32 0#32 1#32 4#32).startCheck = 1#4 := by decide
theorem test_check_destination_range : (config 0#32 0xFFFFFFF8#32 2#32 2#32).startCheck = 0#4 ∧
    (config 0#32 0xFFFFFFF9#32 2#32 2#32).startCheck = 2#4 := by decide
theorem test_check_overlap : (config 0x1000#32 0x100B#32 2#32 2#32).startCheck = 3#4 ∧
    (config 0x1000#32 0x100C#32 2#32 2#32).startCheck = 0#4 ∧
    (config 0x1000#32 0xFF8#32 2#32 2#32).startCheck = 0#4 ∧
    (config 0x1000#32 0xFF9#32 2#32 2#32).startCheck = 3#4 := by decide
theorem test_check_empty : (config 0#32 0#32 0#32 0#32).startCheck = 0#4 ∧
    (config 0#32 0#32 1#32 5#32).startCheck = 0#4 := by decide
theorem test_check_does_not_wrap :
    { config 0#32 0#32 0xFFFFFFFF#32 0xFFFFFFFF#32 with ctrl := ⟨.rggb, true, true, false⟩ }.startCheck = 1#4 := by
  decide

/-! ### Sample and completion (95_test_vectors 2.2, 2.4, 2.7, P1; the example of 41_sample R145) -/

theorem test_start_snapshot :
    (blockOf (exec (.wrCmdStart 1#32) idleP1)).map Block.snap = some [0x1000#16, 0x2100#16, 0x3100#16, 0x4200#16] := by
  decide
theorem test_complete_P1 : bytesOf (complete busyP1) 0x2000 8
    = some [0x00#8, 0x10#8, 0x00#8, 0x21#8, 0x00#8, 0x31#8, 0x00#8, 0x42#8] := by decide
theorem test_complete_P1_status : statusOf (complete busyP1) = some 2#32 := by decide
theorem test_widen : widen8 0x00#8 = 0#16 ∧ widen8 0x80#8 = 0x8000#16 ∧ widen8 0xFF#8 = 0xFF00#16 ∧
    joinBigEndian 0x12#8 0x34#8 = 0x1234#16 ∧ joinBigEndian 0x00#8 0xFF#8 = 0x00FF#16 := by decide

/-- W = H = 3, RGBA, 16 bits, GBRG: the addresses of 95_test_vectors 2.4. -/
theorem test_addresses_use_the_source_stride :
    { config 0#32 0x5000#32 3#32 3#32 with ctrl := ⟨.gbrg, true, true, false⟩ }.visits.map
      { config 0#32 0x5000#32 3#32 3#32 with ctrl := ⟨.gbrg, true, true, false⟩ }.visitAddr = [2, 12, 24, 34] := by
  decide

theorem test_read_error_status : statusOf (complete (readFault busyP1)) = some 0x44#32 := by decide
theorem test_write_error_status : statusOf (complete (writeFault busyP1)) = some 0x54#32 := by decide
theorem test_overlap_status :
    statusOf (exec (.wrCmdStart 1#32) (withB fun _ => config 0x1000#32 0x1008#32 2#32 2#32)) = some 0x34#32 := by decide
theorem test_reset_while_busy :
    blockOf (step (coming busyP1 [.resetInput true])) = some Block.reset := by decide

/-! ### parse (95_test_vectors 2.8) -/

theorem test_parse_names : (parsePattern " Rggb ".toList).toOption = some 0b00#2 ∧
    (parsePattern "\tGrBg\n".toList).toOption = some 0b10#2 ∧
    (parsePattern "BGGR ".toList).toOption = some 0b01#2 ∧
    (parsePattern "gbrg".toList).toOption = some 0b11#2 := by decide
theorem test_parse_rejects : (parsePattern "R G G B".toList).toOption = none ∧
    (parsePattern "RGB".toList).toOption = none ∧ (parsePattern "".toList).toOption = none ∧
    (parsePattern "xyz".toList).toOption = none := by decide

/-! ### Witnesses: concrete states and operands that meet an obligation's hypotheses -/

theorem witness_DecodeOfEncode : (Instr.wrCmdStart 3#32).WellFormed ∧ (Instr.wrCmdNop 2#32).WellFormed ∧
    (Instr.rdRsvdA 10#4).WellFormed ∧ (Instr.wrRsvdA 11#4 1#32).WellFormed ∧ (Instr.rdRsvdB 12#4).WellFormed ∧
    (Instr.wrRsvdB 15#4 1#32).WellFormed := by decide

theorem witness_ReadIgnoresDataWriteTakesIt : CommandWord.isWrite 0x0300000000#37 = false ∧
    CommandWord.isWrite 0x03FFFFFFFF#37 = false ∧ CommandWord.woff 0x0300000000#37 = CommandWord.woff 0x03FFFFFFFF#37 ∧
    CommandWord.isWrite 0x13FFFFFFFF#37 = true := by decide

theorem witness_StepRunsDecodedTransaction :
    (coming idleP1 [.command 0x1200000001#37, .engine]).rst = false ∧
    (coming idleP1 [.command 0x1200000001#37, .engine]).agenda = .command 0x1200000001#37 :: [.engine] ∧
    decodeWord 0x1200000001#37 = .wrCmdStart 1#32 ∧ (Instr.wrCmdStart 1#32).WellFormed := by decide

/-- The three clauses at their boundaries: just below and just above the window, its last byte, a 16-bit access at its
first word, its first and its last word. -/
theorem witness_BusAccessRule :
    (placed State.reset).rst = false ∧
    (coming (placed State.reset) [.busAccess ⟨0x40000000, 4, true, 9#32⟩]).agenda
      = [.busAccess ⟨0x40000000, 4, true, 9#32⟩] ∧
    (0x3FFFFFFF < (placed State.reset).platform.base ∧ (placed State.reset).platform.base + 64 ≤ 0x40000040) ∧
    ((placed State.reset).platform.base ≤ 0x4000003F ∧ 0x4000003F < (placed State.reset).platform.base + 64 ∧
      (0x4000003F - (placed State.reset).platform.base) % 4 ≠ 0) ∧
    ((placed State.reset).platform.base ≤ 0x40000000 ∧ (2 : Nat) ≠ 4) ∧
    ((placed State.reset).platform.base ≤ 0x4000003C ∧ 0x4000003C < (placed State.reset).platform.base + 64 ∧
      (0x4000003C - (placed State.reset).platform.base) % 4 = 0) := by decide

theorem test_bus_access : nextOf (step (coming (placed idleP1) [.busAccess ⟨0x4000003F, 4, true, 0#32⟩]))
      = some { placed idleP1 with resp := .busError } ∧
    respOf (step (coming (placed idleP1) [.busAccess ⟨0x40000010, 4, false, 0#32⟩])) = some (.word 0x2000#32) ∧
    nextOf (step (coming (placed idleP1) [.busAccess ⟨0x40000040, 4, false, 0#32⟩])) = some (placed idleP1) := by decide

/-- The state with reset asserted. -/
def underReset (s : State) : State := { s with rst := true }

/-- Command words of both directions; bus accesses just below and just above the window, misaligned at its last byte,
16 bits wide at its first word, and legal at its first and last word. -/
theorem witness_TransactionsUnderReset : (underReset (placed State.reset)).rst = true ∧
    CommandWord.isWrite 0x1600000007#37 = true ∧ CommandWord.isWrite 0x0900000000#37 = false ∧
    (coming (underReset (placed State.reset)) [.busAccess ⟨0x4000003C, 4, false, 0#32⟩]).agenda
      = [.busAccess ⟨0x4000003C, 4, false, 0#32⟩] ∧
    (0x3FFFFFFF < (underReset (placed State.reset)).platform.base ∧
      (underReset (placed State.reset)).platform.base + 64 ≤ 0x40000040) ∧
    ((underReset (placed State.reset)).platform.base ≤ 0x4000003F ∧
      0x4000003F < (underReset (placed State.reset)).platform.base + 64 ∧
      (0x4000003F - (underReset (placed State.reset)).platform.base) % 4 ≠ 0 ∧ (2 : Nat) ≠ 4) ∧
    ((underReset (placed State.reset)).platform.base ≤ 0x40000000 ∧
      0x4000003C < (underReset (placed State.reset)).platform.base + 64 ∧
      (0x4000003C - (underReset (placed State.reset)).platform.base) % 4 = 0) := by decide

/-- A legal write and a legal read by bus access while reset is asserted: ignored, and the reset value. -/
theorem test_bus_access_under_reset :
    nextOf (step (coming (underReset (placed State.reset)) [.busAccess ⟨0x40000018, 4, true, 7#32⟩]))
      = some (underReset (placed State.reset)) ∧
    respOf (step (coming (underReset (placed State.reset)) [.busAccess ⟨0x40000024, 4, false, 0#32⟩]))
      = some (.word 0x02010100#32) := by decide

/-- For CtrlWrite, CtrlReadsBackWritten and ConfigurationWrites: an idle and a Busy block. -/
theorem witness_idle_and_busy : idleP1.block.status.busy = false ∧ busyP1.block.status.busy = true := by decide

theorem witness_StartWhileBusyIgnored : busyP1.block.status.busy = true := rfl

theorem witness_StartRejected : (withB fun _ => config 0x1000#32 0x1008#32 2#32 2#32).block.status.busy = false ∧
    (withB fun _ => config 0x1000#32 0x1008#32 2#32 2#32).block.startCheck ≠ 0#4 := by decide

theorem witness_StartAccepted : idleP1.block.status.busy = false ∧ idleP1.block.startCheck = 0#4 := by decide

/-- One block for each of the four answers. -/
theorem witness_StartCheckCodes : (config 0xFFFFFFF5#32 0#32 2#32 2#32).startCheck = 1#4 ∧
    (config 0#32 0xFFFFFFF9#32 2#32 2#32).startCheck = 2#4 ∧ (config 0x1000#32 0x100B#32 2#32 2#32).startCheck = 3#4 ∧
    blockP1.startCheck = 0#4 := by decide

theorem witness_SampleIsClosedForm : 1 < blockP1.outWidth ∧ 1 < blockP1.outHeight := by decide

theorem witness_ReadSetMembers : 0x1000 ∈ blockP1.readSet ∧ 0x1001 ∉ blockP1.readSet := by decide

/-- W = H = 3: a selected channel, an unselected one, and the dropped column and row. -/
theorem witness_OnlySelectedBytesRead :
    (2 < (config 0#32 0x100#32 3#32 3#32).width ∧ 2 < (config 0#32 0x100#32 3#32 3#32).height ∧
      2 < (config 0#32 0x100#32 3#32 3#32).channels ∧ 0 < (config 0#32 0x100#32 3#32 3#32).bytesPerSample) ∧
    0 ∈ (config 0#32 0x100#32 3#32 3#32).readSet ∧ 1 ∉ (config 0#32 0x100#32 3#32 3#32).readSet ∧
    6 ∉ (config 0#32 0x100#32 3#32 3#32).readSet ∧ 18 ∉ (config 0#32 0x100#32 3#32 3#32).readSet := by decide

theorem witness_CheckedAddressesInSpace : blockP1.startCheck = 0#4 ∧ 0x1000 ∈ blockP1.readSet ∧
    0x2007 ∈ blockP1.writeSet := by decide

theorem witness_SampleDependsOnReadSetOnly :
    blockP1.SameConfig { blockP1 with ctrl := { blockP1.ctrl with ien := true } } ∧
    ∀ a ∈ blockP1.readSet, Memory.read memP1 a = (Memory.write memP1 0x1001 0xFF#8).read a := by
  unfold Block.SameConfig; decide

theorem witness_EngineTurn : busyP1.rst = false ∧ busyP1.block.status.busy = true ∧
    (coming busyP1 [.engine]).agenda = [.engine] ∧ busyP1.agenda = [] ∧
    (coming idleP1 [.engine]).block.status.busy = false ∧ idleP1.agenda = [] := by decide

theorem noBusError_P1 : busyP1.NoBusError := ⟨fun _ _ => rfl, fun _ _ => rfl⟩

theorem witness_CompletionWritesTheGrid : busyP1.block.dstFits ∧ busyP1.NoBusError ∧ busyP1.block.raced = false ∧
    busyP1.touchesDevice = false ∧ 1 < busyP1.block.outWidth ∧ 1 < busyP1.block.outHeight :=
  ⟨by decide, noBusError_P1, rfl, by decide, by decide, by decide⟩

/-- A read error only, a write error only, both. -/
theorem witness_CompletionWithBusError : busyP1.block.dstFits ∧
    ((readFault busyP1).readError = true ∧ (readFault busyP1).writeError = false) ∧
    ((writeFault busyP1).readError = false ∧ (writeFault busyP1).writeError = true) ∧
    ((readFault (writeFault busyP1)).readError = true ∧ (readFault (writeFault busyP1)).writeError = true) := by decide

/-- After a hazard, and in device memory. -/
theorem witness_CompletionAfterHazard :
    { busyP1 with block := { busyP1.block with raced := true } }.block.dstFits ∧
    { busyP1 with block := { busyP1.block with raced := true } }.NoBusError ∧
    { busyP1 with block := { busyP1.block with raced := true } }.block.raced = true ∧
    { busyP1 with platform := ⟨0, [], [⟨0x2007, 1⟩]⟩ }.NoBusError ∧
    { busyP1 with platform := ⟨0, [], [⟨0x2007, 1⟩]⟩ }.touchesDevice = true :=
  ⟨by decide, ⟨fun _ _ => rfl, fun _ _ => rfl⟩, rfl, ⟨fun _ _ => rfl, fun _ _ => rfl⟩, by decide⟩

theorem witness_CompletionEndsOneWay : busyP1.block.status.busy = true ∧ busyP1.block.status.Legal ∧
    (∃ t, complete busyP1 = .next t) ∧ ∃ t, complete (readFault busyP1) = .next t :=
  ⟨rfl, by decide, ⟨_, rfl⟩, ⟨_, rfl⟩⟩

theorem witness_DegenerateOperation : (config 0x3000#32 0x3000#32 1#32 5#32).width < 2 ∧
    (config 0x3000#32 0x3000#32 5#32 1#32).height < 2 := by decide

theorem busyP1_inv : busyP1.Inv := by decide

theorem witness_SourceNeverWritten : busyP1.Inv ∧ busyP1.block.status.busy = true ∧
    (∃ t, complete busyP1 = .next t) ∧ (∃ t, resetBlock busyP1 = .next t) ∧
    (busyP1.block.srcAddr.toNat ≤ 0x100B ∧ 0x100B < busyP1.block.srcAddr.toNat + busyP1.block.srcSize) :=
  ⟨busyP1_inv, rfl, ⟨_, rfl⟩, ⟨_, rfl⟩, by decide⟩

theorem witness_IrqRaisedAndCleared : (∃ t, complete busyP1 = .next t) ∧
    (Word32.isStart 6#32 = false ∧ BitVec.getLsbD 6#32 1 = true ∧ BitVec.getLsbD 6#32 2 = true) ∧
    idleP1.block.status.busy = false ∧ idleP1.block.startCheck = 0#4 :=
  ⟨⟨_, rfl⟩, by decide, rfl, by decide⟩

theorem witness_ResetWhileIdle : idleP1.block.status.busy = false ∧
    (coming idleP1 [.resetInput true]).agenda = [.resetInput true] ∧
    (coming idleP1 [.resetInput false]).agenda = [.resetInput false] := by decide

theorem witness_ResetWhileBusy : busyP1.rst = false ∧ busyP1.block.status.busy = true ∧ busyP1.block.dstFits ∧
    (coming busyP1 [.resetInput true]).agenda = [.resetInput true] ∧ 7 < busyP1.block.dstSize := by decide

/-- A write to the last byte of the source region, and one just behind it. -/
theorem witness_MemoryWriteHazard :
    ((nextOf (step (coming busyP1 [.memWrite 0x100B#32 1#8]))).map fun t => t.block.raced) = some true ∧
    ((nextOf (step (coming busyP1 [.memWrite 0x100C#32 1#8]))).map fun t => t.block.raced) = some false ∧
    busyP1.rst = false := by decide

/-- A read of the last byte of WS, and one just behind it. -/
theorem witness_MemoryReadHazard : busyP1.rst = false ∧
    (busyP1.block.status.busy = true ∧ busyP1.block.dstAddr.toNat ≤ 0x2007 ∧
      0x2007 < busyP1.block.dstAddr.toNat + busyP1.block.dstSize) ∧
    ¬ (busyP1.block.status.busy = true ∧ busyP1.block.dstAddr.toNat ≤ 0x2008 ∧
      0x2008 < busyP1.block.dstAddr.toNat + busyP1.block.dstSize) := by decide

theorem witness_EqualReadsEqualMemories : Memory.wf memP1 ∧
    ∀ a, Memory.read memP1 a = Memory.read memP1 a := ⟨by decide, fun _ => rfl⟩

theorem witness_StepKeepsInv : busyP1.Inv ∧ (∃ t, step busyP1 = .next t) ∧
    idleP1.Inv ∧ ∃ t, step (idleP1.withFetchWord 40 0x1200000001) = .next t :=
  ⟨busyP1_inv, ⟨_, rfl⟩, by decide, ⟨_, rfl⟩⟩

theorem witness_EveryStepHasANextState : busyP1.Inv ∧ idleP1.Inv := ⟨busyP1_inv, by decide⟩

theorem witness_StepKeepsSnapshotCurrent : busyP1.Inv ∧ busyP1.SnapshotCurrent ∧
    (∃ t, step (coming busyP1 [.memWrite 0x100C#32 1#8]) = .next t) ∧
    busyP1.block.status.busy = true ∧ busyP1.block.raced = false :=
  ⟨busyP1_inv, by decide, ⟨_, rfl⟩, rfl, rfl⟩

theorem witness_ConfigurationFrozenWhileBusy : (coming busyP1 [.command 0x1500000006#37]).Inv ∧
    (coming busyP1 [.command 0x1500000006#37]).block.status.busy = true ∧
    ∃ t, step (coming busyP1 [.command 0x1500000006#37]) = .next t ∧ t.rst = false :=
  ⟨by decide, rfl, ⟨_, rfl, rfl⟩⟩

/-- BUSY falls by completion, by a bus error and by reset, and rises by START. -/
theorem witness_BusyChangesOnlyBy : busyP1.Inv ∧
    (∃ t, step busyP1 = .next t ∧ t.block.status.busy = false) ∧
    ((readFault busyP1).Inv ∧ ∃ t, step (readFault busyP1) = .next t ∧ t.block.status.busy = false) ∧
    (∃ t, step (coming busyP1 [.resetInput true]) = .next t ∧ t.block.status.busy = false) ∧
    (∃ t, step (coming idleP1 [.command 0x1200000001#37]) = .next t ∧ t.block.status.busy = true) :=
  ⟨busyP1_inv, ⟨_, rfl, rfl⟩, ⟨by decide, ⟨_, rfl, rfl⟩⟩, ⟨_, rfl, rfl⟩, ⟨_, rfl, rfl⟩⟩

theorem witness_MemoryChangesOnlyBy :
    (∃ t, step busyP1 = .next t ∧ t.mem.read 0x2001 ≠ busyP1.mem.read 0x2001) ∧
    ∃ t, step (coming busyP1 [.memWrite 0x3000#32 1#8]) = .next t ∧ t.mem.read 0x3000 ≠ busyP1.mem.read 0x3000 :=
  ⟨⟨_, rfl, by decide⟩, ⟨_, rfl, by decide⟩⟩

theorem witness_OperationEnds : (coming busyP1 [.command 0#37, .memRead 0#32]).Inv ∧
    (coming busyP1 [.command 0#37, .memRead 0#32]).block.status.busy = true := by decide

/-- P1 from its START by command word or by bus access, with a poll and a host write elsewhere on the way; after the
engine's turn the host reads the destination, writes the next image and resets. -/
theorem witness_OperationYieldsClosedForm :
    (placed idleP1).rst = false ∧ Move.IsStart (placed idleP1).platform (.command 0x1200000001#37) ∧
    Move.IsStart (placed idleP1).platform (.busAccess ⟨0x40000008, 4, true, 3#32⟩) ∧
    ((placed idleP1).block.status.busy = false ∧ (placed idleP1).block.startCheck = 0#4 ∧
      (placed idleP1).touchesDevice = false) ∧ (placed idleP1).NoBusError ∧
    (∀ m ∈ [Move.command 0x0100000000#37, .memWrite 0x3000#32 7#8, .memRead 0x1000#32, .resetInput false],
      m.Dutiful (placed idleP1).block) ∧
    [Move.engine, .memRead 0x2000#32, .memWrite 0x1000#32 9#8, .resetInput true].head? = some .engine := by
  refine ⟨rfl, .inl ⟨_, 1#32, rfl, by decide⟩, .inr ⟨3#32, by decide, rfl⟩, by decide,
    ⟨fun _ _ => rfl, fun _ _ => rfl⟩, ?_, rfl⟩
  intro m hm
  simp only [List.mem_cons, List.not_mem_nil, or_false] at hm
  rcases hm with rfl | rfl | rfl | rfl
  · exact trivial
  · exact ⟨rfl, rfl⟩
  · exact rfl
  · exact rfl

/-- Program P1 with another IEN, another STATUS and another value of a byte that is never read. -/
def twinP1 : State := { idleP1 with
  block := { blockP1 with ctrl := { blockP1.ctrl with ien := true }, status := statusFields 2#32 }
  mem := Memory.write memP1 0x1001 0xFF#8 }

theorem witness_OperationsAreDeterministic :
    idleP1.block.SameConfig twinP1.block ∧ (∀ a ∈ idleP1.block.readSet, idleP1.mem.read a = twinP1.mem.read a) ∧
    (idleP1.block.status.busy = false ∧ twinP1.block.status.busy = false ∧ idleP1.block.startCheck = 0#4) ∧
    (idleP1.NoBusError ∧ twinP1.NoBusError ∧ idleP1.touchesDevice = false ∧ twinP1.touchesDevice = false) ∧
    (∃ t, exec (.wrCmdStart 1#32) idleP1 = .next t ∧ ∃ v, complete t = .next v) ∧
    ∃ t, exec (.wrCmdStart 1#32) twinP1 = .next t ∧ ∃ v, complete t = .next v := by
  refine ⟨?_, by decide, by decide, ⟨⟨fun _ _ => rfl, fun _ _ => rfl⟩, ⟨fun _ _ => rfl, fun _ _ => rfl⟩, by decide,
    by decide⟩, ⟨_, rfl, ⟨_, rfl⟩⟩, ⟨_, rfl, ⟨_, rfl⟩⟩⟩
  unfold Block.SameConfig
  decide

theorem witness_ParseAcceptsExactlyTheNames :
    (parsePattern [' ', 'b', 'G', 'g', 'R', '\t']) = .ok 0b01#2 ∧
    parsePattern ['x'] = .error .invalidPatternString := ⟨rfl, rfl⟩

/-- An accepted 2x2 RGBA image at 16 bits. -/
theorem witness_DriverSendsNothingOnFailure :
    parsePattern ['r', 'g', 'g', 'b'] = .ok 0b00#2 ∧
    ∃ moves, driverLaunch ['r', 'g', 'g', 'b'] (.ok ⟨2#32, 2#32, 4, 16, [1#8]⟩) ⟨0x1000#32, 0x2000#32, false⟩
      = .ok moves := ⟨rfl, ⟨_, rfl⟩⟩

theorem witness_EncoderInputsOfTheBlock : 7 < idleP1.block.dstSize := by decide

end Sys2Proof.Tests
end

section
/-! PROOF of O49. The read set lies in the source region, so a store by another agent that sets no hazard leaves every
byte Sample reads, and Sample with them. -/

namespace Sys2Proof.Machine

/-! ### The read set lies in the source region (41_sample R159) -/

/-- Item `k` of group `i`, with `i` below `n` and `k` below the group size `g`, is one of the `n * g` items. -/
theorem groupItem_lt {i n k g : Nat} (hi : i < n) (hk : k < g) : i * g + k < n * g :=
  calc i * g + k < i * g + g := by omega
    _ = (i + 1) * g := (Nat.succ_mul i g).symm
    _ ≤ n * g := Nat.mul_le_mul_right g hi

theorem Channel.index_lt_channels (c : Channel) (b : Block) : c.index < b.channels := by
  have h3 : 3 ≤ b.channels := by unfold Block.channels; split <;> omega
  cases c <;> simp only [Channel.index] <;> omega

theorem Block.mem_readSet (b : Block) (a : Nat) :
    a ∈ b.readSet ↔ ∃ v ∈ b.visits, ∃ k < b.bytesPerSample, b.visitAddr v + k = a := by
  simp only [Block.readSet, List.mem_flatMap, List.mem_map, List.mem_range]

/-- Pixel, channel and byte of a visit each stay inside their bound: the address is one of the S bytes of the region. -/
theorem Block.srcRegion_contains_of_mem_readSet {b : Block} {a : Nat} (h : a ∈ b.readSet) :
    b.srcRegion.contains a = true := by
  obtain ⟨v, hv, k, hk, rfl⟩ := (b.mem_readSet a).mp h
  obtain ⟨hx, hy, -⟩ := (b.mem_visits v).mp hv
  have hpixel : v.y * b.width + v.x < b.height * b.width :=
    groupItem_lt (hy.trans_le (truncEven_le _)) (hx.trans_le (truncEven_le _))
  have hbyte := groupItem_lt (groupItem_lt hpixel ((b.table.at v.p).index_lt_channels b)) hk
  rw [Nat.mul_comm b.height b.width] at hbyte
  simp only [AddrRange.contains_iff, Block.srcRegion, Block.srcSize, Block.visitAddr, Block.sourceAddr]
  omega

/-! ### Sample depends on the configuration and the bytes of the read set only (41_sample R155) -/

theorem Block.SameConfig.sample_eq {b c : Block} (h : b.SameConfig c) : b.sample = c.sample := by
  obtain ⟨hp, hd, ha, hs, ht, hw, hh⟩ := h
  obtain ⟨-, hsample, -⟩ := Block.derived_congr hp hd ha hs ht hw hh
  exact hsample

/-- The byte or bytes of one visit belong to the read set. -/
theorem Block.visit_mem_readSet {b : Block} {v : Visit} (hv : v ∈ b.visits) {k : Nat} (hk : k < b.bytesPerSample) :
    b.visitAddr v + k ∈ b.readSet :=
  (b.mem_readSet _).mpr ⟨v, hv, k, hk, rfl⟩

theorem Block.sample_eq_of_read_eq {b : Block} {m n : Memory} (h : ∀ a ∈ b.readSet, m.read a = n.read a) :
    b.sample m = b.sample n := by
  refine List.foldl_ext _ _ _ fun snap v hv => ?_
  have hread : ∀ k < b.bytesPerSample, m.read (b.visitAddr v + k) = n.read (b.visitAddr v + k) :=
    fun k hk => h _ (b.visit_mem_readSet hv hk)
  suffices b.sampleAt m (b.visitAddr v) = b.sampleAt n (b.visitAddr v) by rw [this]
  cases hd : b.ctrl.depth16 with
  | false =>
    have h0 := hread 0 (by simp [Block.bytesPerSample, hd])
    simpa [Block.sampleAt, hd] using congrArg widen8 h0
  | true =>
    have h0 := hread 0 (by simp [Block.bytesPerSample, hd])
    have h1 := hread 1 (by simp [Block.bytesPerSample, hd])
    simpa [Block.sampleAt, hd] using congrArg₂ joinBigEndian h0 h1

/-- A store outside the source region leaves Sample as it is. -/
theorem Block.sample_write_of_outside {b : Block} {addr : Nat} (h : b.srcRegion.contains addr = false) (m : Memory)
    (v : Byte) : b.sample (m.write addr v) = b.sample m := by
  refine b.sample_eq_of_read_eq fun a ha => ?_
  have hne : a ≠ addr := by
    rintro rfl
    rw [b.srcRegion_contains_of_mem_readSet ha] at h
    cases h
  rw [Memory.read_write, if_neg hne]

/-! ### The snapshot, step by step -/

/-- `State.SnapshotCurrent`, of a block and a memory alone. -/
def Block.SnapCurrent (b : Block) (m : Memory) : Prop :=
  b.status.busy = true → b.raced = false → b.snap = b.sample m

theorem State.snapshotCurrent_iff (s : State) : s.SnapshotCurrent ↔ s.block.SnapCurrent s.mem := Iff.rfl

/-- The snapshot of an idle engine means nothing. -/
theorem Block.SnapCurrent.of_idle {b : Block} (h : b.status.busy = false) (m : Memory) : b.SnapCurrent m :=
  fun hb => absurd (h.symm.trans hb) (by decide)

theorem State.snapshotCurrent_of_idle {s : State} (h : s.block.status.busy = false) : s.SnapshotCurrent :=
  s.snapshotCurrent_iff.mpr (.of_idle h s.mem)

/-- A register transaction on a Busy block changes at most IEN, DONE and ERR; an accepted START takes the snapshot from
the memory at hand; any other leaves the engine idle. -/
theorem BlockChange.keeps_snapCurrent {b c : Block} {m : Memory} {i : Instr} (h : BlockChange b m i c)
    (hs : b.SnapCurrent m) : c.SnapCurrent m := by
  cases h with
  | same => exact hs
  | ctrl data =>
    intro hb hr
    replace hb : b.status.busy = true := hb
    refine (hs hb hr).trans (congrFun (Block.SameConfig.sample_eq ?_) m)
    simp [Block.SameConfig, hb]
  | clear data =>
    intro hb hr
    have hbusy : b.status.busy = true := by simpa using hb
    exact (hs hbusy hr).trans (congrFun (Block.SameConfig.sample_eq ⟨rfl, rfl, rfl, rfl, rfl, rfl, rfl⟩) m)
  | srcAddr data h => exact .of_idle (b := { b with srcAddr := data }) h m
  | dstAddr data h => exact .of_idle (b := { b with dstAddr := data }) h m
  | srcWidth data h => exact .of_idle (b := { b with srcWidth := data }) h m
  | srcHeight data h => exact .of_idle (b := { b with srcHeight := data }) h m
  | rejected data h hc => exact .of_idle rfl m
  | started data h hc => exact fun _ _ => rfl

/-- A store by another agent either sets the memory write hazard or lies outside the source region
(70_reset_and_hazards R228). -/
theorem storeByOther_keeps_snapshotCurrent {s : State} (hs : s.SnapshotCurrent) (addr : Nat) (v : Byte) :
    (storeByOther addr v s).SnapshotCurrent := by
  intro hb hr
  have hbusy : s.block.status.busy = true := hb
  have hflag : s.block.raced = false ∧ s.block.srcRegion.contains addr = false ∧
      s.block.dstRegion.contains addr = false := by
    simpa only [storeByOther, State.busySource, State.busyDestination, hbusy, Bool.true_and, Bool.or_eq_false_iff]
      using hr
  obtain ⟨hraced, hsrc, -⟩ := hflag
  calc s.block.snap = s.block.sample s.mem := hs hbusy hraced
    _ = s.block.sample (s.mem.write addr v) := (Block.sample_write_of_outside hsrc s.mem v).symm

theorem StepEffect.keeps_snapshotCurrent {s t : State} (h : StepEffect s t) (hs : s.SnapshotCurrent) :
    t.SnapshotCurrent := by
  cases h with
  | stays => exact hs
  | transaction m rest w b r ha hm hb hr => exact hb.keeps_snapCurrent hs
  | read => exact hs
  | store addr v => exact storeByOther_keeps_snapshotCurrent hs addr.toNat v
  | release => exact hs
  | resetIdle => exact State.snapshotCurrent_of_idle rfl
  | resetBusy => exact State.snapshotCurrent_of_idle rfl
  | failed => exact State.snapshotCurrent_of_idle rfl
  | ended rest => exact State.snapshotCurrent_of_idle (by simp)
  | noTurn => exact hs

/-- Settles O49: by the cases of a step. Only a store by another agent touches memory while the engine stays Busy, and
one that sets no hazard misses the read set. -/
theorem stepKeepsSnapshotCurrent : Obligations.StepKeepsSnapshotCurrent := by
  intro s t ⟨_, _, _, hreset⟩ hs h
  have heffect : StepEffect s t := State.heldInReset_eq hreset ▸ step_cases h
  exact heffect.keeps_snapshotCurrent hs

end Sys2Proof.Machine
end

section
/-! PROOFS of O47 and O46. Each part of the invariant has its own lemmas: what keeps STATUS legal, what keeps a Busy
engine's operation sound, what keeps memory canonical. A step is one of the cases of `StepEffect`, and each cites
them. -/

namespace Sys2Proof.Machine

/-! ### STATUS stays legal (10_state R33) -/

/-- With DONE, ERR and ERRCODE all 0, BUSY may be either. -/
theorem Status.legal_of_clear {t : Status} (hd : t.done = false) (he : t.err = false) (hc : t.errcode = codeNone) :
    t.Legal := by
  simp [Status.Legal, hd, he, hc, codeNone]

/-- Error entry with DONE at 0 and a code of 60_exceptions R190 other than NONE. -/
theorem Status.legal_failed {t : Status} {code : BitVec 4} (hd : t.done = false) (hne : code ≠ codeNone)
    (hle : code.toNat ≤ 5) : (t.failed code).Legal := by
  simp [Status.Legal, hd, hne, hle]

theorem Status.Legal.done_of_busy {t : Status} (h : t.Legal) (hb : t.busy = true) : t.done = false :=
  (h.1 hb).1

theorem Status.Legal.err_of_busy {t : Status} (h : t.Legal) (hb : t.busy = true) : t.err = false :=
  (h.1 hb).2

/-- While BUSY is 1, ERR and ERRCODE are 0, and they stay so when DONE is set. -/
theorem Status.Legal.ended {t : Status} (h : t.Legal) (hb : t.busy = true) : t.ended.Legal := by
  have ⟨_, _, hcode, hle⟩ := h
  exact ⟨by simp, fun _ => h.err_of_busy hb, hcode, hle⟩

theorem Status.Legal.w1cDone {t : Status} (h : t.Legal) (clear : Bool) : (t.w1cDone clear).Legal := by
  obtain ⟨hbusy, hdone, hcode, hle⟩ := h
  cases clear with
  | false => exact ⟨hbusy, hdone, hcode, hle⟩
  | true => exact ⟨fun hb => ⟨rfl, (hbusy hb).2⟩, by simp, hcode, hle⟩

/-- ERR and ERRCODE are cleared together. -/
theorem Status.Legal.w1cErr {t : Status} (h : t.Legal) (clear : Bool) : (t.w1cErr clear).Legal := by
  obtain ⟨hbusy, hdone, hcode, hle⟩ := h
  cases clear with
  | false => exact ⟨hbusy, hdone, hcode, hle⟩
  | true => exact ⟨fun hb => ⟨(hbusy hb).1, rfl⟩, fun _ => rfl, iff_of_true rfl rfl, Nat.zero_le 5⟩

theorem busErrorCode_ne_none (re we choice : Bool) : busErrorCode re we choice ≠ codeNone := by
  rcases busErrorCode_cases re we choice with h | h <;> rw [h] <;> decide

theorem busErrorCode_le (re we choice : Bool) : (busErrorCode re we choice).toNat ≤ 5 := by
  rcases busErrorCode_cases re we choice with h | h <;> rw [h] <;> decide

theorem Block.startCheck_le (b : Block) : b.startCheck.toNat ≤ 5 := by
  rcases b.startCheck_cases with h | h | h | h <;> rw [h] <;> decide

theorem BlockChange.keeps_legal {b c : Block} {m : Memory} {i : Instr} (h : BlockChange b m i c)
    (hl : b.status.Legal) : c.status.Legal := by
  cases h with
  | same => exact hl
  | ctrl data => exact hl
  | clear data => exact (hl.w1cDone _).w1cErr _
  | srcAddr data h => exact hl
  | dstAddr data h => exact hl
  | srcWidth data h => exact hl
  | srcHeight data h => exact hl
  | rejected data h hc => exact Status.legal_failed rfl hc (Block.startCheck_le _)
  | started data h hc => exact Status.legal_of_clear rfl rfl rfl

/-! ### The operation of a Busy engine stays sound (41_sample R145, R148) -/

theorem Block.operationSound_of_idle {b : Block} (h : b.status.busy = false) : b.OperationSound :=
  fun hb => absurd (h.symm.trans hb) (by decide)

/-- StartCheck and the snapshot's length depend on the configuration without IEN, and on the snapshot. -/
theorem Block.OperationSound.of_sameConfig {b c : Block} (h : b.OperationSound) (hb : b.status.busy = true)
    (hcfg : b.SameConfig c) (hsnap : c.snap = b.snap) : c.OperationSound := by
  obtain ⟨hp, hd, ha, hs, ht, hw, hh⟩ := hcfg
  obtain ⟨hcheck, -, -, -, -, -, -, hwidth, hheight⟩ := Block.derived_congr hp hd ha hs ht hw hh
  obtain ⟨hpass, hlength⟩ := h hb
  intro _
  rw [← hcheck, hsnap, ← hwidth, ← hheight]
  exact ⟨hpass, hlength⟩

theorem BlockChange.keeps_operationSound {b c : Block} {m : Memory} {i : Instr} (h : BlockChange b m i c)
    (hs : b.OperationSound) : c.OperationSound := by
  cases h with
  | same => exact hs
  | ctrl data =>
    intro hb
    replace hb : b.status.busy = true := hb
    exact hs.of_sameConfig hb (by simp [Block.SameConfig, hb]) rfl hb
  | clear data =>
    intro hb
    have hbusy : b.status.busy = true := by simpa using hb
    exact hs.of_sameConfig hbusy ⟨rfl, rfl, rfl, rfl, rfl, rfl, rfl⟩ rfl hb
  | srcAddr data h => exact Block.operationSound_of_idle h
  | dstAddr data h => exact Block.operationSound_of_idle h
  | srcWidth data h => exact Block.operationSound_of_idle h
  | srcHeight data h => exact Block.operationSound_of_idle h
  | rejected data h hc => exact Block.operationSound_of_idle rfl
  | started data h hc => exact fun _ => ⟨hc, Block.sample_length _ m⟩

/-! ### Memory stays canonical under a completion -/

theorem completeWithError_wf {s : State} (h : s.mem.wf) (hf : s.block.dstFits) : (completeWithError s).mem.wf := by
  rw [completeWithError_mem]
  exact Memory.wf_fillAny h hf _ _

theorem completeDone_wf {s : State} (h : s.mem.wf) (hf : s.block.dstFits) : (completeDone s).mem.wf := by
  rw [completeDone_mem]
  split
  · exact Memory.wf_fillAny h hf _ _
  · exact s.block.wf_writeGrid h hf

/-! ### The invariant, step by step -/

/-- Right after reset the engine is idle and no flag is set (10_state R48). -/
theorem State.inv_of_reset_block {s : State} (hm : s.mem.wf) (hb : s.block = Block.reset) : s.Inv :=
  ⟨hm, hb ▸ Status.legal_of_clear rfl rfl rfl, hb ▸ Block.operationSound_of_idle rfl, fun _ => hb⟩

/-- A Busy block is not held in reset. -/
theorem State.Inv.rst_of_busy {s : State} (h : s.Inv) (hb : s.block.status.busy = true) : s.rst = false := by
  obtain ⟨-, -, -, hreset⟩ := h
  refine Bool.eq_false_iff.mpr fun hr => ?_
  rw [hreset hr] at hb
  cases hb

/-- A store by another agent changes at most ENG.raced, and not that of an idle block. -/
theorem storeByOther_keeps_inv {s : State} (h : s.Inv) (addr : Word32) (v : Byte) :
    (storeByOther addr.toNat v s).Inv := by
  obtain ⟨hmem, hlegal, hsound, hreset⟩ := h
  refine ⟨Memory.wf_write hmem addr.isLt v, hlegal, ?_, fun hr => ?_⟩
  · exact fun hb => hsound.of_sameConfig hb ⟨rfl, rfl, rfl, rfl, rfl, rfl, rfl⟩ rfl hb
  · simp [storeByOther, State.busySource, State.busyDestination, hreset hr]

theorem StepEffect.keeps_inv {s t : State} (h : StepEffect s t) (hs : s.Inv) : t.Inv := by
  have ⟨hmem, hlegal, hsound, _⟩ := hs
  cases h with
  | stays => exact hs
  | transaction m rest w b r ha hm hb hr =>
    exact ⟨hmem, hb.keeps_legal hlegal, hb.keeps_operationSound hsound, hr⟩
  | read => exact hs
  | store addr v => exact storeByOther_keeps_inv hs addr v
  | release => exact ⟨hmem, hlegal, hsound, fun hr => nomatch hr⟩
  | resetIdle => exact State.inv_of_reset_block hmem rfl
  | resetBusy rest ha hb hf => exact State.inv_of_reset_block (Memory.wf_fillAny hmem hf s.draws fun _ => false) rfl
  | failed rest ha hb hf he =>
    refine ⟨completeWithError_wf hmem hf, ?_, Block.operationSound_of_idle rfl, fun hr => ?_⟩
    · exact Status.legal_failed (hlegal.done_of_busy hb) (busErrorCode_ne_none _ _ _) (busErrorCode_le _ _ _)
    · exact absurd (hs.rst_of_busy hb) (by simpa using hr)
  | ended rest ha hb hf he =>
    refine ⟨completeDone_wf hmem hf, ?_, Block.operationSound_of_idle (by simp), fun hr => ?_⟩
    · simpa only [completeDone_block] using hlegal.ended hb
    · exact absurd (hs.rst_of_busy hb) (by simpa using hr)
  | noTurn => exact hs

/-- A step from a state with the invariant is one of the effects on the state itself: nothing is left to hold in
reset. -/
theorem State.Inv.stepEffect {s t : State} (hs : s.Inv) (h : step s = .next t) : StepEffect s t := by
  obtain ⟨-, -, -, hreset⟩ := hs
  exact State.heldInReset_eq hreset ▸ step_cases h

/-- Settles O47: by the cases of a step. -/
theorem stepKeepsInv : Obligations.StepKeepsInv :=
  fun _ _ hs h => (hs.stepEffect h).keeps_inv hs

/-- Settles O46. The snapshot means nothing, the engine being idle. -/
theorem invAtReset : Obligations.InvAtReset :=
  ⟨State.inv_of_reset_block Memory.wf_nil rfl, State.snapshotCurrent_of_idle rfl⟩

end Sys2Proof.Machine
end

section
/-! PROOFS of O13, O14, O16 and O40: what a register reads as. -/

namespace Sys2Proof.Machine

/-! ### OUT_WIDTH and OUT_HEIGHT (10_state R39, R40) -/

theorem truncEvenWord_toNat (v : Word32) : (truncEvenWord v).toNat = v.toNat - v.toNat % 2 := by
  have hv := v.isLt
  simp only [truncEvenWord, truncEven, BitVec.toNat_ofNat]
  omega

/-- Clearing bit 0 of a word is subtracting its value modulo 2. -/
theorem truncEvenWord_eq_append (v : Word32) : truncEvenWord v = v.extractLsb' 1 31 ++ 0b0#1 := by
  apply BitVec.eq_of_toNat_eq
  have hv := v.isLt
  rw [truncEvenWord_toNat, BitVec.toNat_append, BitVec.extractLsb'_toNat]
  simp only [BitVec.toNat_ofNat, Nat.shiftLeft_eq, Nat.shiftRight_eq_div_pow, Nat.zero_mod,
    Nat.or_zero]
  omega

/-- Settles O13: each read answers the truncated dimension. -/
theorem outputDimensionReads : Obligations.OutputDimensionReads := fun s =>
  ⟨truncEvenWord s.block.srcWidth, truncEvenWord s.block.srcHeight, rfl, rfl,
    truncEvenWord_eq_append _, truncEvenWord_eq_append _, truncEvenWord_toNat _, truncEvenWord_toNat _⟩

/-! ### CFA_PATTERN (10_state R41) -/

/-- Settles O14, by the four patterns. -/
theorem cfaPatternRead : Obligations.CfaPatternRead := by
  intro s
  have hread : exec .rdCfaPattern s = .next (s.answer (.word (cfaPatternWord s.block.ctrl.pattern))) := rfl
  rw [hread]
  cases s.block.ctrl.pattern <;> rfl

/-! ### CTRL (10_state R23, R28) -/

/-- Every code is some pattern's (10_state R24). -/
@[simp] theorem Pattern.code_ofCode (c : BitVec 2) : (Pattern.ofCode c).code = c := by
  revert c; decide

theorem ofBool_getLsbD_eq_extractLsb' {w : Nat} (v : BitVec w) (k : Nat) :
    BitVec.ofBool (v.getLsbD k) = v.extractLsb' k 1 := by
  ext i hi
  simp [show i = 0 by omega]

/-- IEN, ALPHA, DEPTH16 and PATTERN stand side by side: together they are DATA[4:0]. -/
theorem ctrlOfData_word_eq_setWidth (data : Word32) :
    (ctrlOfData data).word = (data.extractLsb' 0 5).setWidth 32 := by
  simp only [Ctrl.word, ctrlOfData, Pattern.code_ofCode, ofBool_getLsbD_eq_extractLsb']
  rw [BitVec.extractLsb'_append_extractLsb'_eq_extractLsb' (show 4 = 3 + 1 from rfl),
    BitVec.extractLsb'_append_extractLsb'_eq_extractLsb' (show 3 = 2 + 1 from rfl),
    BitVec.extractLsb'_append_extractLsb'_eq_extractLsb' (show 2 = 0 + 2 from rfl)]

theorem setWidth_lowFive_eq_and (data : Word32) : (data.extractLsb' 0 5).setWidth 32 = data &&& 0x0000001F#32 := by
  apply BitVec.eq_of_toNat_eq
  rw [BitVec.toNat_and, show (0x0000001F#32).toNat = 2 ^ 5 - 1 from rfl, Nat.and_two_pow_sub_one_eq_mod]
  simp only [BitVec.toNat_setWidth, BitVec.extractLsb'_toNat, Nat.shiftRight_zero]
  omega

/-- Settles O16: an idle block takes every field of the written value, and the read puts them together again. -/
theorem ctrlReadsBackWritten : Obligations.CtrlReadsBackWritten := by
  intro s data hidle
  have hwrite : exec (.wrCtrl data) s = .next (s.withBlock { s.block with ctrl := ctrlOfData data }) := by
    simp [exec, execWrCtrl, hidle]
  exact ⟨_, _, hwrite, rfl,
    congrArg Response.word ((ctrlOfData_word_eq_setWidth data).trans (setWidth_lowFive_eq_and data))⟩

/-! ### The reset values (10_state R48) -/

/-- Settles O40: every register of the window is read at the reset state. -/
theorem resetValues : Obligations.ResetValues := by
  refine ⟨fun i hi => ?_, rfl, rfl, rfl⟩
  simp only [List.mem_cons, List.not_mem_nil, or_false] at hi
  rcases hi with rfl | rfl | rfl | rfl | rfl | rfl | rfl | rfl | rfl | rfl | rfl | rfl | rfl | rfl | rfl <;> rfl

end Sys2Proof.Machine
end

section
/-! PROOFS of O39 and O51: when the interrupt output and BUSY rise and fall. -/

namespace Sys2Proof.Machine

/-! ### The interrupt output (10_state R44, 60_exceptions R193) -/

theorem Block.irq_iff (b : Block) :
    b.irq = true ↔ b.ctrl.ien = true ∧ (b.status.done = true ∨ b.status.err = true) := by
  simp [Block.irq]

theorem Block.irq_of_clear {b : Block} (hd : b.status.done = false) (he : b.status.err = false) : b.irq = false := by
  simp [Block.irq, hd, he]

/-- Success sets DONE and an error sets ERR, so only IEN is left to decide. -/
theorem complete_irq {s t : State} (h : complete s = .next t) : t.block.irq = s.block.ctrl.ien := by
  rcases complete_cases s with ⟨_, e⟩ | ⟨_, _, e⟩ | ⟨_, _, e⟩ <;> rw [e] at h <;> cases h
  · simp [Block.irq]
  · simp [Block.irq]

/-- StartCheck does not look at STATUS. -/
@[simp] theorem Block.startCheck_recoverByStart (b : Block) : b.recoverByStart.startCheck = b.startCheck := rfl

/-- An accepted START whose checks pass (41_sample R145). -/
theorem exec_wrCmdStart_of_passed {s : State} (hidle : s.block.status.busy = false)
    (hcheck : s.block.startCheck = codeNone) (data : Word32) :
    exec (.wrCmdStart data) s = .next (s.withBlock { s.block.recoverByStart with
      snap := s.block.recoverByStart.sample s.mem, raced := false, status := s.block.status.cleared.begun }) := by
  simp [exec, execWrCmdStart, hidle, hcheck]

/-- Settles O39: each of the three ways leaves DONE and ERR as the output wants them. -/
theorem irqRaisedAndCleared : Obligations.IrqRaisedAndCleared := by
  refine ⟨Block.irq_iff, fun s t => complete_irq, fun s data h1 h2 => ⟨_, rfl, ?_⟩,
    fun s data hidle hcheck => ?_⟩
  · exact Block.irq_of_clear (by simp [clearsDone, h1]) (by simp [clearsErr, h2])
  · exact ⟨_, exec_wrCmdStart_of_passed hidle hcheck data, Block.irq_of_clear rfl rfl⟩

/-! ### BUSY (10_state R29, 42_host_interface R186) -/

/-- No register transaction ends an operation. -/
theorem BlockChange.busy_of_busy {b c : Block} {m : Memory} {i : Instr} (h : BlockChange b m i c)
    (hb : b.status.busy = true) : c.status.busy = true := by
  cases h with
  | same => exact hb
  | ctrl data => exact hb
  | clear data => simpa using hb
  | srcAddr data h => exact hb
  | dstAddr data h => exact hb
  | srcWidth data h => exact hb
  | srcHeight data h => exact hb
  | rejected data h hc => exact absurd (h.symm.trans hb) (by decide)
  | started data h hc => rfl

/-- The only register transaction that begins an operation is a START whose checks pass. -/
theorem BlockChange.start_of_busy_rises {b c : Block} {m : Memory} {i : Instr} (h : BlockChange b m i c)
    (hb : b.status.busy = false) (hc : c.status.busy = true) :
    b.startCheck = codeNone ∧ ∃ data, i = .wrCmdStart data := by
  have hne : b.status.busy ≠ true := by simp [hb]
  cases h with
  | same => exact absurd hc hne
  | ctrl data => exact absurd hc hne
  | clear data => exact absurd (by simpa using hc) hne
  | srcAddr data h => exact absurd hc hne
  | dstAddr data h => exact absurd hc hne
  | srcWidth data h => exact absurd hc hne
  | srcHeight data h => exact absurd hc hne
  | rejected data h hcheck => cases hc
  | started data h hcheck => exact ⟨hcheck, data, rfl⟩

/-- What a step that ends the operation leaves: the reset values, success, or a bus error. -/
theorem StepEffect.end_of_busy_falls {s t : State} (h : StepEffect s t) (hlegal : s.block.status.Legal)
    (hb : s.block.status.busy = true) (ht : t.block.status.busy = false) :
    (t.rst = true ∧ t.block = Block.reset) ∨ (t.block.status.done = true ∧ t.block.status.err = false) ∨
      (t.block.status.done = false ∧ t.block.status.err = true ∧
        (t.block.status.errcode = codeBusRead ∨ t.block.status.errcode = codeBusWrite)) := by
  have hne : s.block.status.busy ≠ false := by simp [hb]
  cases h with
  | stays => exact absurd ht hne
  | transaction m rest w b r ha hm hchange => exact absurd ht (by simp [hchange.busy_of_busy hb])
  | read => exact absurd ht hne
  | store => exact absurd ht hne
  | release => exact absurd ht hne
  | resetIdle => exact .inl ⟨rfl, rfl⟩
  | resetBusy => exact .inl ⟨rfl, rfl⟩
  | failed => exact .inr (.inr ⟨hlegal.done_of_busy hb, rfl, busErrorCode_cases _ _ _⟩)
  | ended => exact .inr (.inl ⟨by simp, by simpa using hlegal.err_of_busy hb⟩)
  | noTurn => exact absurd ht hne

/-- What a step that begins an operation took: a START, by command word or by bus access, whose checks pass. -/
theorem StepEffect.start_of_busy_rises {s t : State} (h : StepEffect s t) (hb : s.block.status.busy = false)
    (ht : t.block.status.busy = true) :
    s.rst = false ∧ s.block.startCheck = codeNone ∧
      ∃ (w : CommandWord) (data : Word32), decodeWord w = .wrCmdStart data ∧
        (s.agenda.head? = some (.command w) ∨
          ∃ a : BusAccess, s.agenda.head? = some (.busAccess a) ∧ w = a.commandWord s.platform) := by
  have hne : s.block.status.busy ≠ true := by simp [hb]
  cases h with
  | stays => exact absurd ht hne
  | transaction m rest w b r ha hm hchange hr =>
    replace ht : b.status.busy = true := ht
    obtain ⟨hcheck, data, hstart⟩ := hchange.start_of_busy_rises hb ht
    have hreleased : s.rst = false := Bool.eq_false_iff.mpr fun h1 => by simp [hr h1] at ht
    refine ⟨hreleased, hcheck, w, data, hstart, ?_⟩
    rcases hm with rfl | ⟨a, rfl, rfl⟩
    · exact .inl (by rw [ha, List.head?_cons])
    · exact .inr ⟨a, by rw [ha, List.head?_cons], rfl⟩
  | read => exact absurd ht hne
  | store => exact absurd ht hne
  | release => exact absurd ht hne
  | resetIdle => cases ht
  | resetBusy => cases ht
  | failed => cases ht
  | ended => simp at ht
  | noTurn => exact absurd ht hne

/-- Settles O51: by the cases of a step, in each direction. -/
theorem busyChangesOnlyBy : Obligations.BusyChangesOnlyBy := by
  intro s t hs h
  have ⟨_, hlegal, _, _⟩ := hs
  exact ⟨(hs.stepEffect h).end_of_busy_falls hlegal, (hs.stepEffect h).start_of_busy_rises⟩

end Sys2Proof.Machine
end

section
/-! PROOFS of O45, O6 and O7: a canonical memory is the list of what it reads as, a step runs the first move, and a bus
access is one of three things to the block. -/

namespace Sys2Proof.Machine

/-! ### A canonical memory is determined by its reads (20_memory R50) -/

/-- The entries of a canonical memory are the addresses, with their bytes, that do not read as an unlisted one does: the
addresses rise, so no later entry hides behind the first of its address. -/
theorem Memory.mem_iff_read {m : Memory} (h : m.wf) (e : Host.Cell) :
    e ∈ m ↔ m.read e.1 = e.2 ∧ e.2 ≠ Config.unlistedByte := by
  obtain ⟨hrising, hlisted⟩ := h
  induction m with
  | nil => simpa [Memory.read] using fun he => he.symm
  | cons c rest ih =>
    obtain ⟨k, v⟩ := c
    obtain ⟨hfirst, hrising⟩ := List.pairwise_cons.mp hrising
    obtain ⟨hhead, hlisted⟩ := List.forall_mem_cons.mp hlisted
    by_cases hk : k = e.1
    · have hrest : e ∉ rest := fun he => (hfirst e he).ne hk
      have hv : v ≠ Config.unlistedByte := hhead.2
      obtain ⟨a, b⟩ := e
      subst hk
      simp only [List.mem_cons, hrest, or_false, Prod.mk.injEq, true_and, Memory.read, if_true]
      exact ⟨fun hb => ⟨hb.symm, hb ▸ hv⟩, fun hb => hb.1.symm⟩
    · have hne : e ≠ (k, v) := fun he => hk (congrArg Prod.fst he).symm
      simp only [List.mem_cons, hne, false_or, Memory.read, if_neg hk]
      exact ih hrising hlisted

/-- Settles O45: equal reads give the same entries, and both lists hold them in rising order of address. -/
theorem equalReadsEqualMemories : Obligations.EqualReadsEqualMemories := by
  intro m n hm hn hread
  have hmem : ∀ e, e ∈ m ↔ e ∈ n := fun e => by
    rw [Memory.mem_iff_read hm, Memory.mem_iff_read hn, hread]
  exact hm.1.eq_of_mem_iff hn.1 hmem

/-! ### A step runs the first move (20_memory R58) -/

theorem step_of_released {s : State} {m : Move} {rest : List Move} (hr : s.rst = false) (ha : s.agenda = m :: rest) :
    step s = runMove m (s.taking rest) := by
  rw [step, State.heldInReset_of_released hr, nextMove, ha]
  rfl

theorem runCommand_of_released (w : CommandWord) {s : State} (hr : s.rst = false) :
    runCommand w s = exec (decodeWord w) s := by
  simp [runCommand, hr]

theorem step_command {s : State} {w : CommandWord} {rest : List Move} (hr : s.rst = false)
    (ha : s.agenda = .command w :: rest) : step s = exec (decodeWord w) (s.taking rest) :=
  (step_of_released hr ha).trans (runCommand_of_released w hr)

/-- Settles O6. The word that `withFetchWord` places is such a move, and taking it leaves the old agenda. -/
theorem stepRunsDecodedTransaction : Obligations.StepRunsDecodedTransaction := by
  refine ⟨fun s w i rest hr ha hi _ => ?_, fun s nbits w => ?_⟩
  · rw [step_command hr ha, hi]
  · exact step_command (s := s.withFetchWord nbits w) rfl rfl

/-! ### The three outcomes of a bus access (20_memory R55) -/

theorem runBusAccess_of_outside {a : BusAccess} {s : State} (hout : ¬ a.reaches s.platform = true) :
    runBusAccess a s = .next s := by
  rw [runBusAccess, if_pos hout]

theorem runBusAccess_of_illegal {a : BusAccess} {s : State} (hin : a.reaches s.platform = true)
    (h : ¬ a.isWord s.platform = true) : runBusAccess a s = .next (s.answer .busError) := by
  rw [runBusAccess, if_neg (not_not_intro hin), if_pos h]

theorem runBusAccess_of_legal {a : BusAccess} {s : State} (hin : a.reaches s.platform = true)
    (h : a.isWord s.platform = true) : runBusAccess a s = runCommand (a.commandWord s.platform) s := by
  rw [runBusAccess, if_neg (not_not_intro hin), if_neg (not_not_intro h)]

/-! ### The command word of a bus access (30_encoding R82) -/

@[simp] theorem BusAccess.commandWord_isWrite (a : BusAccess) (p : Platform) :
    (a.commandWord p).isWrite = a.isWrite := by
  cases h : a.isWrite <;> simp [BusAccess.commandWord, h]

theorem BusAccess.commandWord_woff (a : BusAccess) (p : Platform) :
    (a.commandWord p).woff = BitVec.ofNat 4 ((a.addr - p.base) / 4) := by
  cases h : a.isWrite <;> simp [BusAccess.commandWord, h]

/-- The window has 16 words, so inside it no bit of the word offset is lost. -/
theorem BusAccess.commandWord_woff_toNat {a : BusAccess} {p : Platform} (hin : a.reaches p = true) :
    (a.commandWord p).woff.toNat = (a.addr - p.base) / 4 := by
  rw [BusAccess.reaches_iff] at hin
  rw [BusAccess.commandWord_woff, BitVec.toNat_ofNat, Nat.mod_eq_of_lt (by omega)]

theorem BusAccess.commandWord_data {a : BusAccess} (h : a.isWrite = true) (p : Platform) :
    (a.commandWord p).data = a.data := by
  simp [BusAccess.commandWord, h]

/-- Settles O7: one clause for each outcome of the access. -/
theorem busAccessRule : Obligations.BusAccessRule := by
  intro s a rest hr ha
  have hstep : step s = runBusAccess a (s.taking rest) := step_of_released hr ha
  refine ⟨fun hout => ?_, fun hlow hhigh hbad => ?_, fun hlow hhigh hbytes halign => ?_⟩
  · have hmiss : ¬ a.reaches s.platform = true := by rw [BusAccess.reaches_iff]; omega
    exact hstep.trans (runBusAccess_of_outside hmiss)
  · have hin : a.reaches s.platform = true := (a.reaches_iff _).mpr ⟨hlow, hhigh⟩
    have hword : ¬ a.isWord s.platform = true := by rw [BusAccess.isWord_iff]; omega
    exact hstep.trans (runBusAccess_of_illegal hin hword)
  · have hin : a.reaches s.platform = true := (a.reaches_iff _).mpr ⟨hlow, hhigh⟩
    have hword : a.isWord s.platform = true := (a.isWord_iff _).mpr ⟨hbytes, halign⟩
    refine ⟨a.commandWord s.platform, a.commandWord_isWrite _, BusAccess.commandWord_woff_toNat hin,
      fun hw => BusAccess.commandWord_data hw _, ?_⟩
    calc step s = runBusAccess a (s.taking rest) := hstep
      _ = runCommand (a.commandWord s.platform) (s.taking rest) := runBusAccess_of_legal hin hword
      _ = exec (decodeWord (a.commandWord s.platform)) (s.taking rest) := runCommand_of_released _ hr

end Sys2Proof.Machine
end

section
/-! PROOFS of O1, O2, O4, O3 and O5: decoding undoes encoding, encoding undoes decoding, and the opcode table is a
second reading of the decoder. -/

namespace Sys2Proof

/-! ### The reserved word offsets (30_encoding R85) -/

theorem Woff.isRsvdA_iff (woff : Woff) : Woff.isRsvdA woff = true ↔ woff = 10#4 ∨ woff = 11#4 := by
  revert woff; decide

theorem Woff.isRsvdB_iff (woff : Woff) :
    Woff.isRsvdB woff = true ↔ woff = 12#4 ∨ woff = 13#4 ∨ woff = 14#4 ∨ woff = 15#4 := by
  revert woff; decide

/-! ### The CMD rows: DATA[0] tells them apart (30_encoding R84) -/

theorem Instr.wellFormed_wrCmdNop_iff {data : Word32} :
    (Instr.wrCmdNop data).WellFormed ↔ ¬ Word32.isStart data = true := by
  simp [Instr.WellFormed, Instr.wellFormed]

theorem decodeWrite_cmd (data : Word32) :
    decodeWrite 2#4 data = if Word32.isStart data then .wrCmdStart data else .wrCmdNop data := rfl

theorem decodeWrite_cmd_of_start {data : Word32} (h : Word32.isStart data = true) :
    decodeWrite 2#4 data = .wrCmdStart data := by
  rw [decodeWrite_cmd, if_pos h]

theorem decodeWrite_cmd_of_nop {data : Word32} (h : ¬ Word32.isStart data = true) :
    decodeWrite 2#4 data = .wrCmdNop data := by
  rw [decodeWrite_cmd, if_neg h]

/-! ### The reserved rows, and the two halves of the decoder (30_encoding R85) -/

theorem decodeRead_of_isRsvdA {woff : Woff} (h : Woff.isRsvdA woff = true) : decodeRead woff = .rdRsvdA woff := by
  rcases woff.isRsvdA_iff.mp h with rfl | rfl <;> rfl

theorem decodeRead_of_isRsvdB {woff : Woff} (h : Woff.isRsvdB woff = true) : decodeRead woff = .rdRsvdB woff := by
  rcases woff.isRsvdB_iff.mp h with rfl | rfl | rfl | rfl <;> rfl

theorem decodeWrite_of_isRsvdA {woff : Woff} (h : Woff.isRsvdA woff = true) (data : Word32) :
    decodeWrite woff data = .wrRsvdA woff data := by
  rcases woff.isRsvdA_iff.mp h with rfl | rfl <;> rfl

theorem decodeWrite_of_isRsvdB {woff : Woff} (h : Woff.isRsvdB woff = true) (data : Word32) :
    decodeWrite woff data = .wrRsvdB woff data := by
  rcases woff.isRsvdB_iff.mp h with rfl | rfl | rfl | rfl <;> rfl

theorem decodeWord_of_read {w : CommandWord} (h : w.isWrite = false) : decodeWord w = decodeRead w.woff := by
  simp [decodeWord, h]

theorem decodeWord_of_write {w : CommandWord} (h : w.isWrite = true) : decodeWord w = decodeWrite w.woff w.data := by
  simp [decodeWord, h]

/-! ### Decoding an encoded instruction -/

/-- Settles O1: a read is decoded by its word offset, a write by its word offset and, at CMD, by DATA[0]; only the CMD
and reserved rows put a condition on their operands. -/
theorem decodeOfEncode : Obligations.DecodeOfEncode := by
  intro i hi
  cases i with
  | rdCtrl => exact decodeWord_encodeRead 0#4
  | rdStatus => exact decodeWord_encodeRead 1#4
  | rdCmd => exact decodeWord_encodeRead 2#4
  | rdSrcAddr => exact decodeWord_encodeRead 3#4
  | rdDstAddr => exact decodeWord_encodeRead 4#4
  | rdSrcWidth => exact decodeWord_encodeRead 5#4
  | rdSrcHeight => exact decodeWord_encodeRead 6#4
  | rdOutWidth => exact decodeWord_encodeRead 7#4
  | rdOutHeight => exact decodeWord_encodeRead 8#4
  | rdCfaPattern => exact decodeWord_encodeRead 9#4
  | rdRsvdA woff => exact (decodeWord_encodeRead woff).trans (decodeRead_of_isRsvdA hi)
  | rdRsvdB woff => exact (decodeWord_encodeRead woff).trans (decodeRead_of_isRsvdB hi)
  | wrCtrl data => exact decodeWord_encodeWrite 0#4 data
  | wrStatus data => exact decodeWord_encodeWrite 1#4 data
  | wrCmdStart data => exact (decodeWord_encodeWrite 2#4 data).trans (decodeWrite_cmd_of_start hi)
  | wrCmdNop data =>
    exact (decodeWord_encodeWrite 2#4 data).trans (decodeWrite_cmd_of_nop (Instr.wellFormed_wrCmdNop_iff.mp hi))
  | wrSrcAddr data => exact decodeWord_encodeWrite 3#4 data
  | wrDstAddr data => exact decodeWord_encodeWrite 4#4 data
  | wrSrcWidth data => exact decodeWord_encodeWrite 5#4 data
  | wrSrcHeight data => exact decodeWord_encodeWrite 6#4 data
  | wrOutWidth data => exact decodeWord_encodeWrite 7#4 data
  | wrOutHeight data => exact decodeWord_encodeWrite 8#4 data
  | wrCfaPattern data => exact decodeWord_encodeWrite 9#4 data
  | wrRsvdA woff data => exact (decodeWord_encodeWrite woff data).trans (decodeWrite_of_isRsvdA hi data)
  | wrRsvdB woff data => exact (decodeWord_encodeWrite woff data).trans (decodeWrite_of_isRsvdB hi data)

/-! ### Encoding a decoded word -/

theorem decodeRead_wellFormed (woff : Woff) : (decodeRead woff).WellFormed := by
  revert woff; decide

theorem encode_decodeRead (woff : Woff) : encode (decodeRead woff) = encodeRead woff := by
  revert woff; decide

/-- DATA[0] chooses between the two CMD rows, and the other rows take all of DATA as it is. -/
theorem decodeWrite_spec (woff : Woff) (data : Word32) :
    (decodeWrite woff data).WellFormed ∧ encode (decodeWrite woff data) = encodeWrite woff data := by
  rcases Woff.cases16 woff with
    rfl | rfl | rfl | rfl | rfl | rfl | rfl | rfl | rfl | rfl | rfl | rfl | rfl | rfl | rfl | rfl
  case inr.inr.inl =>
    rw [decodeWrite_cmd]
    split
    next hstart => exact ⟨hstart, rfl⟩
    next hnop => exact ⟨Instr.wellFormed_wrCmdNop_iff.mpr hnop, rfl⟩
  all_goals exact ⟨rfl, rfl⟩

theorem decodeWrite_wellFormed (woff : Woff) (data : Word32) : (decodeWrite woff data).WellFormed :=
  (decodeWrite_spec woff data).1

theorem encode_decodeWrite (woff : Woff) (data : Word32) : encode (decodeWrite woff data) = encodeWrite woff data :=
  (decodeWrite_spec woff data).2

theorem encode_decodeWord_of_write {w : CommandWord} (h : w.isWrite = true) : encode (decodeWord w) = w := by
  rw [decodeWord_of_write h, encode_decodeWrite, ← CommandWord.eq_encodeWrite h]

/-- Clearing DATA of a read word gives the canonical read word of its offset. -/
theorem CommandWord.clearData_of_read {w : CommandWord} (h : w.isWrite = false) :
    w &&& 0x1F00000000#37 = encodeRead w.woff := by
  have hmask : 0x1F00000000#37 = (BitVec.allOnes 5 ++ 0#32 : BitVec 37) := by decide
  have hw : w = ((0#1 ++ w.woff) ++ w.data : BitVec 37) := by
    have hfields := w.eq_fields
    rwa [h] at hfields
  calc w &&& 0x1F00000000#37 = ((0#1 ++ w.woff) ++ w.data) &&& (BitVec.allOnes 5 ++ 0#32) := by rw [hmask, ← hw]
    _ = ((0#1 ++ w.woff) &&& BitVec.allOnes 5) ++ (w.data &&& 0#32) := BitVec.and_append
    _ = encodeRead w.woff := by rw [BitVec.and_allOnes, BitVec.and_zero]; rfl

theorem encode_decodeWord_of_read {w : CommandWord} (h : w.isWrite = false) :
    encode (decodeWord w) = w &&& 0x1F00000000#37 := by
  rw [decodeWord_of_read h, encode_decodeRead, CommandWord.clearData_of_read h]

theorem decodeWord_wellFormed (w : CommandWord) : (decodeWord w).WellFormed := by
  cases h : w.isWrite with
  | false => exact decodeWord_of_read h ▸ decodeRead_wellFormed w.woff
  | true => exact decodeWord_of_write h ▸ decodeWrite_wellFormed w.woff w.data

/-- Settles O2, for reads and for writes. -/
theorem encodeOfDecode : Obligations.EncodeOfDecode := by
  refine fun w => ⟨decodeWord_wellFormed w, ?_⟩
  cases h : w.isWrite with
  | false => exact encode_decodeWord_of_read h
  | true => exact encode_decodeWord_of_write h

/-- Settles O4: the decoder of reads is given no DATA, and a write's encoding is the word itself. -/
theorem readIgnoresDataWriteTakesIt : Obligations.ReadIgnoresDataWriteTakesIt := by
  refine ⟨fun w v hw hv hwoff => ?_, fun w hw => ?_⟩
  · rw [decodeWord_of_read hw, decodeWord_of_read hv, hwoff]
  · rw [encode_decodeWord_of_write hw]
    exact ⟨rfl, rfl⟩

/-- Settles O5, on eight fixed words. -/
theorem specWordsDecode : Obligations.SpecWordsDecode := by
  unfold Obligations.SpecWordsDecode
  decide

/-! ### The opcode table (30_encoding R85) -/

/-- The lemmas of the family RowMatch, one for each instruction, together. -/
theorem Laws.RowMatch.statement (i : Instr) : Laws.RowMatch.Statement i := by
  cases i with
  | rdCtrl => exact rdCtrl
  | rdStatus => exact rdStatus
  | rdCmd => exact rdCmd
  | rdSrcAddr => exact rdSrcAddr
  | rdDstAddr => exact rdDstAddr
  | rdSrcWidth => exact rdSrcWidth
  | rdSrcHeight => exact rdSrcHeight
  | rdOutWidth => exact rdOutWidth
  | rdOutHeight => exact rdOutHeight
  | rdCfaPattern => exact rdCfaPattern
  | rdRsvdA woff => exact rdRsvdA woff
  | rdRsvdB woff => exact rdRsvdB woff
  | wrCtrl data => exact wrCtrl data
  | wrStatus data => exact wrStatus data
  | wrCmdStart data => exact wrCmdStart data
  | wrCmdNop data => exact wrCmdNop data
  | wrSrcAddr data => exact wrSrcAddr data
  | wrDstAddr data => exact wrDstAddr data
  | wrSrcWidth data => exact wrSrcWidth data
  | wrSrcHeight data => exact wrSrcHeight data
  | wrOutWidth data => exact wrOutWidth data
  | wrOutHeight data => exact wrOutHeight data
  | wrCfaPattern data => exact wrCfaPattern data
  | wrRsvdA woff data => exact wrRsvdA woff data
  | wrRsvdB woff data => exact wrRsvdB woff data

theorem OpcodeRow.selects_iff (r : OpcodeRow) (w : CommandWord) : r.selects w = true ↔ w &&& r.mask = r.value :=
  beq_iff_eq

/-- Two rows whose match values agree on the bits that both masks cover are one row. -/
theorem opcodeTable_disjoint :
    ∀ r ∈ opcodeTable, ∀ q ∈ opcodeTable, r.value &&& q.mask = q.value &&& r.mask → r = q := by
  decide

theorem opcodeTable_nodup : opcodeTable.Nodup := by decide

theorem OpcodeRow.eq_of_selects {r q : OpcodeRow} {w : CommandWord} (hr : r ∈ opcodeTable) (hq : q ∈ opcodeTable)
    (hrw : r.selects w = true) (hqw : q.selects w = true) : r = q := by
  rw [OpcodeRow.selects_iff] at hrw hqw
  refine opcodeTable_disjoint r hr q hq ?_
  calc r.value &&& q.mask = w &&& r.mask &&& q.mask := by rw [hrw]
    _ = w &&& q.mask &&& r.mask := by ac_rfl
    _ = q.value &&& r.mask := by rw [hqw]

/-- The row that selects a word is the only one. -/
theorem opcodeTable_filter_selects {r : OpcodeRow} {w : CommandWord} (hr : r ∈ opcodeTable) (hw : r.selects w = true) :
    opcodeTable.filter (fun q => q.selects w) = [r] := by
  refine List.perm_singleton.mp ((List.perm_ext_iff_of_nodup (opcodeTable_nodup.filter _) (List.nodup_singleton r)).mpr
    fun q => ?_)
  rw [List.mem_filter, List.mem_singleton]
  exact ⟨fun ⟨hq, hqw⟩ => OpcodeRow.eq_of_selects hq hr hqw hw, by rintro rfl; exact ⟨hr, hw⟩⟩

/-- The row of a read covers no bit of DATA. -/
theorem opcodeTable_read_mask :
    ∀ woff, ∀ r ∈ opcodeTable, r.mnemonic = (decodeRead woff).mnemonic → 0x1F00000000#37 &&& r.mask = r.mask := by
  decide

theorem exists_row_selects (w : CommandWord) :
    ∃ r ∈ opcodeTable, r.mnemonic = (decodeWord w).mnemonic ∧ r.selects w = true := by
  obtain ⟨r, hr, hname, hsel⟩ := Laws.RowMatch.statement (decodeWord w) (decodeWord_wellFormed w)
  refine ⟨r, hr, hname, ?_⟩
  cases h : w.isWrite with
  | true => rwa [encode_decodeWord_of_write h] at hsel
  | false =>
    rw [decodeWord_of_read h] at hname
    rwa [encode_decodeWord_of_read h, OpcodeRow.selects_iff, BitVec.and_assoc,
      opcodeTable_read_mask w.woff r hr hname, ← OpcodeRow.selects_iff] at hsel

/-- Settles O3: the row of the decoded instruction selects the word, and no other row does. -/
theorem eachWordMatchesExactlyItsRow : Obligations.EachWordMatchesExactlyItsRow := by
  intro w
  obtain ⟨r, hr, hname, hsel⟩ := exists_row_selects w
  rw [opcodeTable_filter_selects hr hsel, List.map_singleton, hname]

end Sys2Proof
end

section
/-! PROOF of O48: a step can fault only where a Busy engine's destination leaves the address space, and the invariant
rules that out. -/

namespace Sys2Proof.Machine

theorem complete_next {s : State} (hf : s.block.dstFits) : ∃ t, complete s = .next t := by
  rcases complete_cases s with ⟨hn, -⟩ | ⟨-, -, e⟩ | ⟨-, -, e⟩
  · exact absurd hf hn
  · exact ⟨_, e⟩
  · exact ⟨_, e⟩

theorem resetBlock_next {s : State} (hf : s.block.status.busy = true → s.block.dstFits) :
    ∃ t, resetBlock s = .next t := by
  rcases resetBlock_cases s with ⟨-, e⟩ | ⟨hb, hn, -⟩ | ⟨-, -, e⟩
  · exact ⟨_, e⟩
  · exact absurd (hf hb) hn
  · exact ⟨_, e⟩

theorem runCommand_next (w : CommandWord) (s : State) : ∃ t, runCommand w s = .next t := by
  obtain ⟨_, _, -, e⟩ := runCommand_cases w s
  exact ⟨_, e⟩

theorem runBusAccess_next (a : BusAccess) (s : State) : ∃ t, runBusAccess a s = .next t := by
  obtain ⟨_, _, -, e⟩ := runBusAccess_cases a s
  exact ⟨_, e⟩

theorem hostRead_next (addr : Word32) (s : State) : ∃ t, hostRead addr s = .next t := by
  unfold hostRead
  split <;> exact ⟨_, rfl⟩

theorem driveReset_next (asserted : Bool) {s : State} (hf : s.block.status.busy = true → s.block.dstFits) :
    ∃ t, driveReset asserted s = .next t := by
  cases asserted with
  | false => exact ⟨_, rfl⟩
  | true => exact resetBlock_next (s := { s with rst := true }) hf

theorem engineTurn_next {s : State} (hf : s.block.status.busy = true → s.block.dstFits) :
    ∃ t, engineTurn s = .next t := by
  unfold engineTurn
  split
  next hb => exact complete_next (hf hb)
  next => exact ⟨s, rfl⟩

theorem runMove_next (m : Move) {s : State} (hf : s.block.status.busy = true → s.block.dstFits) :
    ∃ t, runMove m s = .next t := by
  cases m with
  | command w => exact runCommand_next w s
  | busAccess a => exact runBusAccess_next a s
  | memRead addr => exact hostRead_next addr s
  | memWrite addr v => exact ⟨_, rfl⟩
  | memReadStale addr => exact ⟨_, rfl⟩
  | memWriteUnseen addr => exact ⟨_, rfl⟩
  | resetInput asserted => exact driveReset_next asserted hf
  | engine => exact engineTurn_next hf

theorem nextMove_next {s : State} (hf : s.block.status.busy = true → s.block.dstFits) : ∃ t, nextMove s = .next t := by
  unfold nextMove
  split
  next =>
    split
    next hb => exact complete_next (s := s.answer .none) (hf hb)
    next => exact ⟨s, rfl⟩
  next m rest _ => exact runMove_next m (s := s.taking rest) hf

/-- The operation of a Busy engine passed StartCheck, so its destination lies inside the address space
(41_sample R159). -/
theorem State.Inv.dstFits_of_busy {s : State} (h : s.Inv) (hb : s.block.status.busy = true) : s.block.dstFits := by
  obtain ⟨-, -, hsound, -⟩ := h
  obtain ⟨hcheck, -⟩ := hsound hb
  exact Block.dstFits_of_startCheck hcheck

/-- Settles O48: with nothing left to hold in reset, a step is the next move, which has a next state. -/
theorem everyStepHasANextState : Obligations.EveryStepHasANextState := by
  intro s hs
  have ⟨_, _, _, hreset⟩ := hs
  rw [step, State.heldInReset_eq hreset]
  exact nextMove_next hs.dstFits_of_busy

end Sys2Proof.Machine
end

section
/-! PROOF of O58: the command words of the assembler as numbers, CTRL written and read back, and the bit WAIT polls. -/

namespace Sys2Proof

/-! ### The encoder's words as numbers (30_encoding R80) -/

theorem toNat_append_eq_add {m n : Nat} (x : BitVec m) (y : BitVec n) :
    (x ++ y).toNat = x.toNat * 2 ^ n + y.toNat := by
  rw [BitVec.toNat_append, ← Nat.shiftLeft_add_eq_or_of_lt y.isLt, Nat.shiftLeft_eq]

theorem encodeRead_toNat (woff : Woff) : (encodeRead woff).toNat = woff.toNat * 2 ^ 32 := by
  simp only [encodeRead, toNat_append_eq_add, BitVec.toNat_ofNat]
  omega

theorem encodeWrite_toNat (woff : Woff) (data : Word32) :
    (encodeWrite woff data).toNat = 2 ^ 36 + woff.toNat * 2 ^ 32 + data.toNat := by
  simp only [encodeWrite, toNat_append_eq_add, BitVec.toNat_ofNat]
  omega

namespace Machine

/-! ### CONFIG (30_encoding R91) -/

@[simp] theorem Pattern.ofCode_code (p : Pattern) : Pattern.ofCode p.code = p := by
  cases p <;> rfl

theorem Ctrl.word_toNat (c : Ctrl) :
    c.word.toNat = c.pattern.code.toNat + 4 * c.depth16.toNat + 8 * c.alpha.toNat + 16 * c.ien.toNat := by
  have hp := c.pattern.code.isLt
  have hd := c.depth16.toNat_lt
  have ha := c.alpha.toNat_lt
  have hi := c.ien.toNat_lt
  simp only [Ctrl.word, BitVec.toNat_setWidth, toNat_append_eq_add, BitVec.toNat_ofBool]
  omega

/-- The word CONFIG writes is the word CTRL reads as once it holds those fields. -/
theorem asmConfig_eq (c : Ctrl) :
    asmConfig c.pattern.code c.depth16 c.alpha c.ien = encodeWrite 0#4 c.word := by
  rw [asmConfig, ← Ctrl.word_toNat, BitVec.ofNat_toNat, BitVec.setWidth_eq]
  rfl

/-- CTRL written with what it reads as stays as it is. -/
theorem ctrlOfData_word (c : Ctrl) : ctrlOfData c.word = c := by
  have hpattern : c.word.extractLsb' 0 2 = c.pattern.code := by
    apply BitVec.eq_of_getLsbD_eq
    intro i hi
    simp only [Ctrl.word, BitVec.getLsbD_extractLsb', BitVec.getLsbD_setWidth, BitVec.getLsbD_append]
    simp [hi, show i < 32 by omega]
  have hflags : c.word.getLsbD 2 = c.depth16 ∧ c.word.getLsbD 3 = c.alpha ∧ c.word.getLsbD 4 = c.ien := by
    simp only [Ctrl.word, BitVec.getLsbD_setWidth, BitVec.getLsbD_append, BitVec.getLsbD_ofBool]
    simp
  obtain ⟨hdepth16, halpha, hien⟩ := hflags
  rw [ctrlOfData, hpattern, hdepth16, halpha, hien, Pattern.ofCode_code]

theorem mul_toNat_eq_ite (k : Nat) (b : Bool) : k * b.toNat = if b then k else 0 := by
  cases b <;> simp

theorem asmConfig_toNat (pat : BitVec 2) (d16 alpha ien : Bool) :
    (asmConfig pat d16 alpha ien).toNat = 0x1000000000 +
      (pat.toNat + (if d16 then 4 else 0) + (if alpha then 8 else 0) + (if ien then 16 else 0)) := by
  have h := asmConfig_eq ⟨Pattern.ofCode pat, d16, alpha, ien⟩
  rw [Pattern.code_ofCode] at h
  rw [h, encodeWrite_toNat, Ctrl.word_toNat]
  simp only [Pattern.code_ofCode, mul_toNat_eq_ite]
  rfl

/-! ### POLL and WAIT (30_encoding R91) -/

theorem pollEnds_iff (response mask value : Word32) :
    pollEnds response mask value = true ↔ response &&& mask = value :=
  beq_iff_eq

theorem Status.word_bit_zero (t : Status) : t.word.getLsbD 0 = t.busy := by
  rw [Status.word, BitVec.getLsbD_setWidth, BitVec.getLsbD_append]
  simp

/-- The mask of WAIT leaves BUSY alone of the bits of STATUS. -/
theorem Status.word_and_one (t : Status) : t.word &&& 1#32 = (BitVec.ofBool t.busy).setWidth 32 :=
  Laws.RowMatch.and_one_of_bit t.word t.busy t.word_bit_zero

theorem waitEnds_iff (t : Status) : waitEnds t.word = true ↔ t.busy = false := by
  rw [waitEnds, pollEnds_iff, Status.word_and_one]
  cases t.busy <;> decide

/-- Settles O58, clause by clause. -/
theorem pseudoInstructions : Obligations.PseudoInstructions := by
  refine ⟨by decide, by decide, asmConfig_toNat, fun p d16 alpha ien => ?_, fun r n => ?_, pollEnds_iff,
    fun n => ?_, waitEnds_iff⟩
  · refine ⟨(Ctrl.mk p d16 alpha ien).word, ?_, ctrlOfData_word _⟩
    rw [asmConfig_eq ⟨p, d16, alpha, ien⟩, decodeWord_encodeWrite]
    rfl
  · exact ⟨asmRead r, encodeRead_toNat r.woff, rfl⟩
  · have hword : asmRead .status = 0x0100000000#37 := by decide
    rw [asmWait, asmPoll, hword]

end Machine

end Sys2Proof
end

section
/-! PROOFS of O9 to O12, O15 and O17 to O19: what each register access answers and what it leaves, bit by bit and field by
field. -/

namespace Sys2Proof.Machine

/-! ### Reads of whole registers and of zero (40_register_access R104, R107 to R113, R121, R123) -/

/-- Settles O9: each is the shared register read, of its own register. -/
theorem configurationReads : Obligations.ConfigurationReads := fun s =>
  ⟨readRegister_eq s.block.srcAddr s, readRegister_eq s.block.dstAddr s, readRegister_eq s.block.srcWidth s,
    readRegister_eq s.block.srcHeight s⟩

/-- Settles O12: each is the shared register read, of the constant 0. -/
theorem readsOfZero : Obligations.ReadsOfZero := fun s _woff =>
  ⟨readRegister_eq 0x00000000#32 s, readRegister_eq 0x00000000#32 s, readRegister_eq 0x00000000#32 s⟩

/-! ### Reads of the registers made of fields (40_register_access R100, R102) -/

/-- Zero extension leaves 0 above: the reserved high bits of CTRL and STATUS (10_state R28, R33). -/
theorem extractLsb'_setWidth_high {w v len : Nat} (x : BitVec w) : (x.setWidth v).extractLsb' w len = 0#len := by
  ext i hi
  simp

/-- PATTERN's code is CTRL's low field: what a write of the word takes back as PATTERN determines it. -/
theorem Ctrl.word_pattern (c : Ctrl) : c.word.extractLsb' 0 2 = c.pattern.code := by
  have hpattern : Pattern.ofCode (c.word.extractLsb' 0 2) = c.pattern := congrArg Ctrl.pattern (ctrlOfData_word c)
  rw [← hpattern, Pattern.code_ofCode]

/-- Settles O10: each flag is the operand a write of the same word takes from that bit. -/
theorem ctrlRead : Obligations.CtrlRead := by
  intro s
  have hfields : ctrlOfData s.block.ctrl.word = s.block.ctrl := ctrlOfData_word _
  refine ⟨s.block.ctrl.word, readRegister_eq _ s, ?_, congrArg Ctrl.depth16 hfields, congrArg Ctrl.alpha hfields,
    congrArg Ctrl.ien hfields, extractLsb'_setWidth_high _⟩
  rw [Ctrl.word_pattern]
  cases s.block.ctrl.pattern <;> rfl

theorem Status.word_flags (t : Status) :
    t.word.getLsbD 1 = t.done ∧ t.word.getLsbD 2 = t.err ∧ t.word.getLsbD 3 = false := by
  simp only [Status.word, BitVec.getLsbD_setWidth, BitVec.getLsbD_append]
  simp

theorem Status.word_errcode (t : Status) : t.word.extractLsb' 4 4 = t.errcode := by
  apply BitVec.eq_of_getLsbD_eq
  intro i hi
  simp only [Status.word, BitVec.getLsbD_extractLsb', BitVec.getLsbD_setWidth, BitVec.getLsbD_append]
  simp [hi, show 4 + i < 32 by omega]

/-- Settles O11: the bits of the word STATUS reads as, and the read leaves STATUS alone. -/
theorem statusRead : Obligations.StatusRead := by
  intro s
  obtain ⟨hdone, herr, hreserved⟩ := s.block.status.word_flags
  exact ⟨s.block.status.word, readRegister_eq _ s, Status.word_bit_zero _, hdone, herr, hreserved,
    Status.word_errcode _, extractLsb'_setWidth_high _⟩

/-! ### Writes of CTRL (40_register_access R101) -/

theorem exec_wrCtrl_of_busy {s : State} (h : s.block.status.busy = true) (data : Word32) :
    exec (.wrCtrl data) s =
      .next (s.withBlock { s.block with ctrl := { s.block.ctrl with ien := data.getLsbD 4 } }) := by
  simp [exec, execWrCtrl, h, ctrlOfData]

theorem exec_wrCtrl_of_idle {s : State} (h : s.block.status.busy = false) (data : Word32) :
    exec (.wrCtrl data) s = .next (s.withBlock { s.block with ctrl := ctrlOfData data }) := by
  simp [exec, execWrCtrl, h]

/-- Settles O15: a busy block takes IEN alone, an idle one every field. -/
theorem ctrlWrite : Obligations.CtrlWrite := by
  intro s data
  cases hb : s.block.status.busy with
  | true =>
    exact ⟨{ s.block.ctrl with ien := data.getLsbD 4 }, exec_wrCtrl_of_busy hb data, rfl,
      fun _ => ⟨rfl, rfl, rfl⟩, nofun, rfl⟩
  | false =>
    exact ⟨ctrlOfData data, exec_wrCtrl_of_idle hb data, rfl, nofun, fun _ => ⟨rfl, rfl, rfl⟩, rfl⟩

/-! ### Writes of STATUS (40_register_access R103) -/

theorem Status.ext {t u : Status} (hbusy : t.busy = u.busy) (hdone : t.done = u.done) (herr : t.err = u.err)
    (herrcode : t.errcode = u.errcode) : t = u := by
  cases t
  cases u
  exact (Status.mk.injEq ..).mpr ⟨hbusy, hdone, herr, herrcode⟩

/-- The two clearings together, field by field: neither touches the other's fields. -/
theorem Status.w1cErr_w1cDone_eq (t : Status) (clearDone clearErr : Bool) :
    (t.w1cDone clearDone).w1cErr clearErr =
      { busy := t.busy, done := t.done && !clearDone, err := t.err && !clearErr,
        errcode := if clearErr then codeNone else t.errcode } :=
  Status.ext (by simp) (by simp) (by simp) (by simp)

/-- Settles O17: the write is the recovery by a STATUS write, with the new STATUS written out. -/
theorem statusWriteOneToClear : Obligations.StatusWriteOneToClear := by
  intro s data
  have hwrite : exec (.wrStatus data) s = .next (s.withBlock { s.block with
      status := (s.block.status.w1cDone (clearsDone data)).w1cErr (clearsErr data) }) := rfl
  rw [hwrite, Status.w1cErr_w1cDone_eq]
  rfl

/-! ### Writes that BUSY freezes, and writes without effect (40_register_access R105, R108 to R124) -/

theorem exec_wrSrcAddr (data : Word32) (s : State) :
    exec (.wrSrcAddr data) s = writeFrozen (fun b => { b with srcAddr := data }) s := rfl

theorem exec_wrDstAddr (data : Word32) (s : State) :
    exec (.wrDstAddr data) s = writeFrozen (fun b => { b with dstAddr := data }) s := rfl

theorem exec_wrSrcWidth (data : Word32) (s : State) :
    exec (.wrSrcWidth data) s = writeFrozen (fun b => { b with srcWidth := data }) s := rfl

theorem exec_wrSrcHeight (data : Word32) (s : State) :
    exec (.wrSrcHeight data) s = writeFrozen (fun b => { b with srcHeight := data }) s := rfl

/-- Settles O18: each is the shared write that BUSY freezes, on its own register. -/
theorem configurationWrites : Obligations.ConfigurationWrites := by
  intro s data
  rw [exec_wrSrcAddr, exec_wrDstAddr, exec_wrSrcWidth, exec_wrSrcHeight]
  constructor
  · intro hidle
    exact ⟨writeFrozen_of_idle _ hidle, writeFrozen_of_idle _ hidle, writeFrozen_of_idle _ hidle,
      writeFrozen_of_idle _ hidle⟩
  · intro hbusy
    exact ⟨writeFrozen_of_busy _ hbusy, writeFrozen_of_busy _ hbusy, writeFrozen_of_busy _ hbusy,
      writeFrozen_of_busy _ hbusy⟩

/-- Settles O19: each is the shared write without effect. -/
theorem writesWithoutEffect : Obligations.WritesWithoutEffect := fun s _woff _data =>
  ⟨writeIgnored_eq s, writeIgnored_eq s, writeIgnored_eq s, writeIgnored_eq s, writeIgnored_eq s, writeIgnored_eq s⟩

end Sys2Proof.Machine
end

section
/-! PROOFS of O23, O25, O26, O27, O28, O29, O30, O31 and O24: the pure part of the sample operation. -/

namespace Sys2Proof.Machine

/-! ### StartCheck (41_sample R147) -/

/-- The third check is that the two regions share an address. -/
theorem Block.startCheck_eq (b : Block) : b.startCheck =
    if 0 < b.srcSize ∧ b.srcAddr.toNat + b.srcSize > Config.memorySize then codeSrcRange
    else if 0 < b.dstSize ∧ b.dstAddr.toNat + b.dstSize > Config.memorySize then codeDstRange
    else if b.srcRegion.overlaps b.dstRegion = true then codeOverlap
    else codeNone := by
  have hoverlap : b.srcRegion.overlaps b.dstRegion = true ↔ 0 < b.srcSize ∧ 0 < b.dstSize ∧
      b.srcAddr.toNat < b.dstAddr.toNat + b.dstSize ∧ b.dstAddr.toNat < b.srcAddr.toNat + b.srcSize :=
    decide_eq_true_iff
  simp only [Block.startCheck, hoverlap]

/-- In a chain of three conditions, each code tells which condition is the first to hold. -/
theorem firstCode_iff (p q r : Prop) [Decidable p] [Decidable q] [Decidable r] :
    let code := if p then codeSrcRange else if q then codeDstRange else if r then codeOverlap else codeNone
    (code = 1#4 ↔ p) ∧ (code = 2#4 ↔ ¬ p ∧ q) ∧ (code = 3#4 ↔ ¬ p ∧ ¬ q ∧ r) ∧ (code = 0#4 ↔ ¬ p ∧ ¬ q ∧ ¬ r) := by
  by_cases hp : p
  · simp [hp, codeSrcRange]
  · by_cases hq : q
    · simp [hp, hq, codeDstRange]
    · by_cases hr : r
      · simp [hp, hq, hr, codeOverlap]
      · simp [hp, hq, hr, codeNone]

/-- Settles O23: the codes of the chain, the overlap said as a shared address. -/
theorem startCheckCodes : Obligations.StartCheckCodes := by
  intro b
  have hoverlap := AddrRange.overlaps_iff b.srcRegion b.dstRegion
  have hcodes := firstCode_iff (0 < b.srcSize ∧ b.srcAddr.toNat + b.srcSize > Config.memorySize)
    (0 < b.dstSize ∧ b.dstAddr.toNat + b.dstSize > Config.memorySize) (b.srcRegion.overlaps b.dstRegion = true)
  rw [← b.startCheck_eq, hoverlap] at hcodes
  simp only [AddrRange.contains_iff] at hcodes
  exact hcodes

theorem Block.startCheck_eq_none_iff (b : Block) :
    b.startCheck = codeNone ↔
      ¬ (0 < b.srcSize ∧ b.srcAddr.toNat + b.srcSize > Config.memorySize) ∧
      ¬ (0 < b.dstSize ∧ b.dstAddr.toNat + b.dstSize > Config.memorySize) ∧
      ¬ b.srcRegion.overlaps b.dstRegion = true := by
  rw [b.startCheck_eq]
  obtain ⟨-, -, -, hnone⟩ := firstCode_iff (0 < b.srcSize ∧ b.srcAddr.toNat + b.srcSize > Config.memorySize)
    (0 < b.dstSize ∧ b.dstAddr.toNat + b.dstSize > Config.memorySize) (b.srcRegion.overlaps b.dstRegion = true)
  exact hnone

/-! ### The pattern table (41_sample R141) -/

/-- Settles O24, row by row. -/
theorem patternTableRows : Obligations.PatternTableRows := by
  intro p
  cases p with
  | rggb => decide
  | bggr => decide
  | grbg => decide
  | gbrg => decide

/-! ### Widening (41_sample R142, 20_memory R51) -/

/-- No value overflows: the largest is 0xFF00. -/
theorem widen8_toNat (v : Byte) : (widen8 v).toNat = v.toNat * 256 := by
  simp only [widen8, BitVec.toNat_ofNat]
  omega

theorem joinBigEndian_toNat (high low : Byte) : (joinBigEndian high low).toNat = high.toNat * 256 + low.toNat := by
  simp only [joinBigEndian, BitVec.toNat_ofNat]
  omega

theorem widen8_eq_append (v : Byte) : widen8 v = v ++ 0x00#8 := by
  apply BitVec.eq_of_toNat_eq
  rw [widen8_toNat, toNat_append_eq_add, BitVec.toNat_ofNat]
  omega

theorem joinBigEndian_eq_append (high low : Byte) : joinBigEndian high low = high ++ low := by
  apply BitVec.eq_of_toNat_eq
  rw [joinBigEndian_toNat, toNat_append_eq_add]
  omega

theorem Block.sampleAt_of_depth8 {b : Block} (h : b.ctrl.depth16 = false) (m : Memory) (a : Nat) :
    b.sampleAt m a = widen8 (m.read a) := by
  simp [Block.sampleAt, h]

theorem Block.sampleAt_of_depth16 {b : Block} (h : b.ctrl.depth16 = true) (m : Memory) (a : Nat) :
    b.sampleAt m a = joinBigEndian (m.read a) (m.read (a + 1)) := by
  simp [Block.sampleAt, h]

/-- Settles O25: the two values as numbers and as bytes side by side. -/
theorem sampleWidening : Obligations.SampleWidening := by
  intro b m a
  constructor
  · intro h8
    have hbyte : (m.read a).toNat < 256 := (m.read a).isLt
    rw [Block.sampleAt_of_depth8 h8]
    exact ⟨widen8_eq_append _, widen8_toNat _, by rw [widen8_toNat]; omega⟩
  · intro h16
    rw [Block.sampleAt_of_depth16 h16]
    exact ⟨joinBigEndian_eq_append _ _, joinBigEndian_toNat _ _⟩

/-! ### Numbers of items in groups of one size -/

/-- Item `k` of group `i` is a different item for every other group and every other place in it. -/
theorem groupItem_inj {i j k l g : Nat} (hk : k < g) (hl : l < g) (h : i * g + k = j * g + l) : i = j ∧ k = l := by
  have hij : i = j := by
    rcases Nat.lt_trichotomy i j with hlt | heq | hgt
    · have := groupItem_lt hlt hk; omega
    · exact heq
    · have := groupItem_lt hgt hl; omega
  subst hij
  exact ⟨rfl, by omega⟩

/-! ### The loop of Sample and the closed form (41_sample R148, R153) -/

/-- The channel of the position of (x, y) in its 2x2 block. -/
def Block.channelAt (b : Block) (x y : Nat) : Nat := (b.table.at (2 * (y % 2) + x % 2)).index

theorem Block.visitAddr_eq_of_mem {b : Block} {v : Visit} (h : v ∈ b.visits) :
    b.visitAddr v = b.sourceAddr v.x v.y (b.channelAt v.x v.y) := by
  obtain ⟨-, -, hp⟩ := (b.mem_visits v).mp h
  rw [Block.visitAddr, Block.channelAt, hp]

theorem Block.closedForm_eq_sampleAt (b : Block) (m : Memory) (x y : Nat) :
    b.closedForm m x y = b.sampleAt m (b.sourceAddr x y (b.channelAt x y)) := by
  cases hd : b.ctrl.depth16 with
  | false =>
    rw [Block.sampleAt_of_depth8 hd, widen8_eq_append, Block.sourceAddr, Block.bytesPerSample, hd,
      Block.closedForm, hd]
    rfl
  | true =>
    rw [Block.sampleAt_of_depth16 hd, joinBigEndian_eq_append, Block.sourceAddr, Block.bytesPerSample, hd,
      Block.closedForm, hd]
    rfl

/-- When each list element that sets entry `i` sets it to `c`, and one does, entry `i` ends as `c`, in whatever order. -/
theorem getElem?_foldl_set {α β : Type} {pos : β → Nat} {val : β → α} {vs : List β} {l : List α} {i : Nat} {c : α}
    (hi : i < l.length) (hval : ∀ v ∈ vs, pos v = i → val v = c) (hset : l[i]? = some c ∨ ∃ v ∈ vs, pos v = i) :
    (vs.foldl (fun l v => l.set (pos v) (val v)) l)[i]? = some c := by
  induction vs generalizing l with
  | nil => simpa using hset
  | cons v vs ih =>
    obtain ⟨hv, hvs⟩ := List.forall_mem_cons.mp hval
    refine ih (by simpa using hi) hvs ?_
    by_cases hp : pos v = i
    · exact .inl (by simp only [hp]; rw [List.getElem?_set_self hi, hv hp])
    · simp only [List.getElem?_set_ne hp]
      simpa [hp] using hset

/-- Settles O26: the visit of an output position is the only one that sets its entry. -/
theorem sampleIsClosedForm : Obligations.SampleIsClosedForm := by
  intro b m
  refine ⟨b.sample_length m, fun x y hx hy => ?_⟩
  refine getElem?_foldl_set (pos := fun v : Visit => v.y * b.outWidth + v.x) ?_ (fun v hv hpos => ?_) (.inr ?_)
  · simpa only [List.length_replicate, Nat.mul_comm] using groupItem_lt hy hx
  · obtain ⟨hvx, -, -⟩ := (b.mem_visits v).mp hv
    obtain ⟨hvy, hvx⟩ := groupItem_inj hvx hx hpos
    rw [b.closedForm_eq_sampleAt, Block.visitAddr_eq_of_mem hv, hvx, hvy]
  · exact ⟨⟨2 * (y % 2) + x % 2, x, y⟩, (b.mem_visits _).mpr ⟨hx, hy, rfl⟩, rfl⟩

/-! ### The read set (41_sample R148, R154) -/

/-- The read set, by output positions. -/
theorem Block.mem_readSet_iff (b : Block) (a : Nat) :
    a ∈ b.readSet ↔ ∃ x y k, x < b.outWidth ∧ y < b.outHeight ∧ k < b.bytesPerSample ∧
      a = b.sourceAddr x y (b.channelAt x y) + k := by
  rw [b.mem_readSet]
  constructor
  · rintro ⟨v, hv, k, hk, rfl⟩
    obtain ⟨hx, hy, -⟩ := (b.mem_visits v).mp hv
    exact ⟨v.x, v.y, k, hx, hy, hk, by rw [Block.visitAddr_eq_of_mem hv]⟩
  · rintro ⟨x, y, k, hx, hy, hk, rfl⟩
    exact ⟨⟨2 * (y % 2) + x % 2, x, y⟩, (b.mem_visits _).mpr ⟨hx, hy, rfl⟩, k, hk, rfl⟩

/-- Settles O27: the read set by output positions, every derived quantity written out. -/
theorem readSetMembers : Obligations.ReadSetMembers := fun b a => b.mem_readSet_iff a

/-- Different bytes of the source image have different addresses. -/
theorem Block.sourceAddr_inj {b : Block} {x y c k x' y' c' k' : Nat} (hx : x < b.width) (hx' : x' < b.width)
    (hc : c < b.channels) (hc' : c' < b.channels) (hk : k < b.bytesPerSample) (hk' : k' < b.bytesPerSample)
    (h : b.sourceAddr x y c + k = b.sourceAddr x' y' c' + k') : x = x' ∧ y = y' ∧ c = c' := by
  have hbytes : ((y * b.width + x) * b.channels + c) * b.bytesPerSample + k =
      ((y' * b.width + x') * b.channels + c') * b.bytesPerSample + k' := by
    simp only [Block.sourceAddr] at h; omega
  obtain ⟨hsample, -⟩ := groupItem_inj hk hk' hbytes
  obtain ⟨hpixel, hchannel⟩ := groupItem_inj hc hc' hsample
  obtain ⟨hrow, hcolumn⟩ := groupItem_inj hx hx' hpixel
  exact ⟨hcolumn, hrow, hchannel⟩

theorem Block.channelAt_lt (b : Block) (x y : Nat) : b.channelAt x y < b.channels :=
  Channel.index_lt_channels _ b

/-- Settles O28: a byte that is read is the byte of an output position, and its address belongs to no other byte. -/
theorem onlySelectedBytesRead : Obligations.OnlySelectedBytesRead := by
  intro b x y c k hx hy hc hk
  change b.sourceAddr x y c + k ∈ b.readSet ↔ x < b.outWidth ∧ y < b.outHeight ∧ c = b.channelAt x y
  rw [b.mem_readSet_iff]
  constructor
  · rintro ⟨x', y', k', hx', hy', hk', h⟩
    have hx'W : x' < b.width := hx'.trans_le (truncEven_le _)
    obtain ⟨rfl, rfl, rfl⟩ := Block.sourceAddr_inj hx hx'W hc (b.channelAt_lt x' y') hk hk' h
    exact ⟨hx', hy', rfl⟩
  · rintro ⟨hx', hy', rfl⟩
    exact ⟨x, y, k, hx', hy', hk, rfl⟩

/-! ### Where the engine's addresses lie (41_sample R159) -/

/-- Settles O29: the read set lies in the source region, the write set is the destination region, and the checks keep
both below 2^32 and apart. -/
theorem checkedAddressesInSpace : Obligations.CheckedAddressesInSpace := by
  intro b hcheck
  obtain ⟨hsrc, hdst, hapart⟩ := b.startCheck_eq_none_iff.mp hcheck
  rw [AddrRange.overlaps_iff] at hapart
  have hsize : Config.memorySize = 2 ^ 32 := rfl
  refine ⟨fun a ha => ?_, fun a ha => ?_, fun a hr hw => ?_⟩
  · have hin : b.srcAddr.toNat ≤ a ∧ a < b.srcAddr.toNat + b.srcSize :=
      (b.srcRegion.contains_iff a).mp (Block.srcRegion_contains_of_mem_readSet ha)
    omega
  · have hin := (b.mem_writeSet a).mp ha
    omega
  · exact hapart ⟨a, Block.srcRegion_contains_of_mem_readSet hr,
      (b.dstRegion.contains_iff a).mpr ((b.mem_writeSet a).mp hw)⟩

/-! ### What the sampled values depend on (41_sample R155) -/

/-- Settles O30: equal configurations sample alike, and a sample reads bytes of the read set only. -/
theorem sampleDependsOnReadSetOnly : Obligations.SampleDependsOnReadSetOnly := by
  intro b c m n hconfig hread
  calc b.sample m = b.sample n := Block.sample_eq_of_read_eq hread
    _ = c.sample n := congrFun hconfig.sample_eq n

/-! ### The output dimensions (41_sample R156, R157) -/

theorem sub_truncEven_le_one (v : Nat) : v - truncEven v ≤ 1 := by unfold truncEven; omega

theorem Block.writeSet_length (b : Block) : b.writeSet.length = b.dstSize := by
  simp [Block.writeSet]

/-- Settles O31: both dimensions are truncated to even alike. -/
theorem outputDimensions : Obligations.OutputDimensions := fun b =>
  ⟨truncEvenWord_toNat _, truncEvenWord_toNat _,
    truncEven_even _, truncEven_le _, sub_truncEven_le_one _,
    truncEven_even _, truncEven_le _, sub_truncEven_le_one _, b.writeSet_length⟩

end Sys2Proof.Machine
end

section
/-! PROOFS of O33, O34, O35, O36, O37 and O32: how an operation completes. -/

namespace Sys2Proof.Machine

/-! ### Which completion it is (41_sample R151) -/

theorem complete_of_busError {s : State} (hf : s.block.dstFits) (he : s.readError = true ∨ s.writeError = true) :
    complete s = .next (completeWithError s) := by
  simp [complete, hf, he]

theorem complete_of_noBusError {s : State} (hf : s.block.dstFits) (h : s.NoBusError) :
    complete s = .next (completeDone s) := by
  simp [complete, hf, s.noBusError_iff.mp h]

/-! ### Memory outside the destination region stays (41_sample R149, R150) -/

theorem Block.keepsOutside_fillAny (b : Block) (m : Memory) (draw : Nat) (keep : Nat → Bool) :
    b.KeepsOutside m (m.fillAny b.dstAddr.toNat b.dstSize draw keep) := by
  intro a ha
  rw [Memory.read_fillAny, if_neg fun ⟨hlow, hhigh, _⟩ => ha ⟨hlow, hhigh⟩]

theorem Block.keepsOutside_writeGrid (b : Block) (m : Memory) : b.KeepsOutside m (b.writeGrid m) := by
  intro a ha
  rw [b.read_writeGrid, if_neg ha]

theorem completeWithError_keepsOutside (s : State) : s.block.KeepsOutside s.mem (completeWithError s).mem := by
  rw [completeWithError_mem]
  exact s.block.keepsOutside_fillAny _ _ _

theorem completeDone_keepsOutside (s : State) : s.block.KeepsOutside s.mem (completeDone s).mem := by
  rw [completeDone_mem]
  split
  · exact s.block.keepsOutside_fillAny _ _ _
  · exact s.block.keepsOutside_writeGrid _

/-! ### Success (41_sample R149, R152) -/

/-- Without hazard and device memory the grid is written, and no free value is drawn. -/
theorem completeDone_of_ordinary {s : State} (hr : s.block.raced = false) (hd : s.touchesDevice = false) :
    completeDone s = { s with
      mem := s.block.writeGrid s.mem, block := { s.block with status := s.block.status.ended } } := by
  simp [completeDone, hr, hd, State.withBlock]

/-- Both bytes of an output sample, at its place in the destination region. -/
theorem Block.read_writeGrid_sample {b : Block} {x y : Nat} (hx : x < b.outWidth) (hy : y < b.outHeight) (m : Memory) :
    (b.writeGrid m).read (b.gridAddr x y) = (b.snap.getD (y * b.outWidth + x) 0#16).extractLsb' 0 8 ∧
      (b.writeGrid m).read (b.gridAddr x y + 1) = (b.snap.getD (y * b.outWidth + x) 0#16).extractLsb' 8 8 := by
  have hplace : y * b.outWidth + x < b.outHeight * b.outWidth := groupItem_lt hy hx
  have hsize : b.dstSize = b.outHeight * b.outWidth * 2 := by rw [Block.dstSize, Nat.mul_comm b.outWidth]
  rw [b.read_writeGrid, b.read_writeGrid, Block.gridAddr, hsize]
  generalize y * b.outWidth + x = i at *
  constructor
  · rw [if_pos (by omega), show (b.dstAddr.toNat + 2 * i - b.dstAddr.toNat) / 2 = i by omega,
      show (b.dstAddr.toNat + 2 * i - b.dstAddr.toNat) % 2 = 0 by omega]
  · rw [if_pos (by omega), show (b.dstAddr.toNat + 2 * i + 1 - b.dstAddr.toNat) / 2 = i by omega,
      show (b.dstAddr.toNat + 2 * i + 1 - b.dstAddr.toNat) % 2 = 1 by omega]

/-- Settles O33: the completion is the grid writes and the end of the operation. -/
theorem completionWritesTheGrid : Obligations.CompletionWritesTheGrid := by
  intro s hf hbus hr hd
  refine ⟨s.block.writeGrid s.mem, ?_, s.block.keepsOutside_writeGrid _,
    fun x y hx hy => Block.read_writeGrid_sample hx hy s.mem⟩
  rw [complete_of_noBusError hf hbus, completeDone_of_ordinary hr hd]
  rfl

/-! ### A bus error (41_sample R150) -/

theorem busErrorCode_of_readOnly (choice : Bool) : busErrorCode true false choice = codeBusRead := rfl

theorem busErrorCode_of_writeOnly (choice : Bool) : busErrorCode false true choice = codeBusWrite := rfl

/-- Settles O34: the error entry with the code, over a destination filled but where a write gets a bus error. -/
theorem completionWithBusError : Obligations.CompletionWithBusError := by
  intro s hf he
  refine ⟨completeWithError s, _, complete_of_busError hf he, rfl, fun hw => ?_, fun hr => ?_,
    busErrorCode_cases _ _ _, completeWithError_keepsOutside s, fun k hk => ?_, rfl, rfl, rfl, rfl⟩
  · have hread : s.readError = true := by simpa [hw] using he
    rw [hread, hw]
    exact busErrorCode_of_readOnly _
  · have hwrite : s.writeError = true := by simpa [hr] using he
    rw [hwrite, hr]
    exact busErrorCode_of_writeOnly _
  · rw [completeWithError_mem, Memory.read_fillAny]
    cases hk' : s.platform.busErr (s.block.dstAddr.toNat + k) .write with
    | true => simp
    | false => rw [if_pos ⟨by omega, by omega, rfl⟩, Nat.add_sub_cancel_left]; rfl

/-! ### The write hazard and device memory (70_reset_and_hazards R228, 20_memory R59) -/

/-- Settles O35: the destination is filled with free bytes, none of them kept. -/
theorem completionAfterHazard : Obligations.CompletionAfterHazard := by
  intro s hf hbus hhazard
  refine ⟨completeDone s, complete_of_noBusError hf hbus, rfl, completeDone_keepsOutside s, fun k hk => ?_,
    completeDone_platform s, completeDone_rst s, completeDone_agenda s, completeDone_resp s⟩
  have hmem : (completeDone s).mem =
      s.mem.fillAny s.block.dstAddr.toNat s.block.dstSize s.draws fun _ => false := by
    rw [completeDone_mem, if_pos (by simpa using hhazard)]
  rw [hmem, Memory.read_fillAny, if_pos ⟨by omega, by omega, rfl⟩, Nat.add_sub_cancel_left]

/-! ### One end or the other (41_sample R151) -/

/-- Settles O36: BUSY legally means DONE and ERR are 0, and each completion sets one of the two. -/
theorem completionEndsOneWay : Obligations.CompletionEndsOneWay := by
  intro s t hb hlegal h
  rw [s.noBusError_iff]
  rcases complete_cases s with ⟨_, e⟩ | ⟨_, he, e⟩ | ⟨_, he, e⟩ <;> rw [e] at h <;> cases h
  · simp [hlegal.done_of_busy hb, he]
  · simp [hlegal.err_of_busy hb, he]

/-! ### A degenerate source (41_sample R158) -/

theorem truncEven_eq_zero {v : Nat} (h : v < 2) : truncEven v = 0 := by unfold truncEven; omega

theorem Block.writeSet_eq_nil {b : Block} (h : b.dstSize = 0) : b.writeSet = [] :=
  List.eq_nil_of_length_eq_zero (b.writeSet_length.trans h)

/-- With no output position there is none to visit. -/
theorem Block.readSet_eq_nil {b : Block} (h : b.outWidth = 0 ∨ b.outHeight = 0) : b.readSet = [] := by
  refine List.eq_nil_iff_forall_not_mem.mpr fun a ha => ?_
  obtain ⟨x, y, -, hx, hy, -⟩ := (b.mem_readSet_iff a).mp ha
  omega

theorem State.noBusError_of_empty {s : State} (hr : s.block.readSet = []) (hw : s.block.writeSet = []) :
    s.NoBusError := by
  simp [State.NoBusError, hr, hw]

theorem Block.writeGrid_of_empty {b : Block} (h : b.outWidth = 0 ∨ b.outHeight = 0) (m : Memory) :
    b.writeGrid m = m := by
  rcases h with h | h <;> simp [Block.writeGrid, h]

/-- An empty destination holds no byte to write, whether the grid is written or free bytes are. -/
theorem completeDone_of_empty {s : State} (h : s.block.outWidth = 0 ∨ s.block.outHeight = 0) (hD : s.block.dstSize = 0) :
    completeDone s = s.withBlock { s.block with status := s.block.status.ended } := by
  unfold completeDone
  split
  · simp [State.fillDestination, hD, Memory.fillAny_zero]
  · rw [Block.writeGrid_of_empty h]

/-- Settles O37: without an output position both sets are empty, and so is what the completion writes. -/
theorem degenerateOperation : Obligations.DegenerateOperation := by
  intro s h
  have hout : s.block.outWidth = 0 ∨ s.block.outHeight = 0 := h.imp truncEven_eq_zero truncEven_eq_zero
  have harea : s.block.outWidth * s.block.outHeight = 0 := Nat.mul_eq_zero.mpr hout
  have hD : s.block.dstSize = 0 := by rw [Block.dstSize, harea]
  have hRS := Block.readSet_eq_nil hout
  have hWS := Block.writeSet_eq_nil hD
  have hfits : s.block.dstFits := by
    have haddr := s.block.dstAddr.isLt
    simp only [Block.dstFits, hD, Config.memorySize]
    omega
  refine ⟨hout, hD, hRS, hWS, List.eq_nil_of_length_eq_zero ((s.block.sample_length _).trans harea), ?_⟩
  rw [complete_of_noBusError hfits (State.noBusError_of_empty hRS hWS), completeDone_of_empty hout hD]
  rfl

/-! ### The engine's turn (60_exceptions R205, 70_reset_and_hazards R232) -/

theorem step_of_no_move {s : State} (hr : s.rst = false) (ha : s.agenda = []) :
    step s = if s.block.status.busy then complete (s.answer .none) else .next s := by
  rw [step, State.heldInReset_of_released hr, nextMove, ha]

/-- Settles O32: at its turn and when nothing else is to come, by BUSY. -/
theorem engineTurn_step : Obligations.EngineTurn := by
  intro s rest hr
  refine ⟨fun hb ha => ?_, fun hb ha => ?_, fun hb ha => ?_, fun hb ha => ?_⟩
  · rw [step_of_released hr ha]
    exact if_pos hb
  · rw [step_of_no_move hr ha, if_pos hb]
    rfl
  · rw [step_of_released hr ha]
    exact if_neg (by simp [hb])
  · rw [step_of_no_move hr ha, if_neg (by simp [hb])]

end Sys2Proof.Machine
end

section
/-! PROOFS of O21, O22, O55 and O52: what START does to the block, that equal operations leave equal bytes, and where a
step can change memory. -/

namespace Sys2Proof.Machine

/-! ### START (41_sample R145) -/

/-- An accepted START whose check fails: the shared recovery, then the shared error entry. -/
theorem exec_wrCmdStart_of_failed {s : State} (hidle : s.block.status.busy = false)
    (hcheck : s.block.startCheck ≠ codeNone) (data : Word32) :
    exec (.wrCmdStart data) s = .next (s.withBlock (s.block.recoverByStart.enterError s.block.startCheck)) := by
  simp [exec, execWrCmdStart, hidle, hcheck]

/-- Settles O21: recovery and error entry together, with the new STATUS written out. -/
theorem startRejected : Obligations.StartRejected := by
  intro s data hidle hcheck
  rw [exec_wrCmdStart_of_failed hidle hcheck]
  rfl

/-- Settles O22: an idle block keeps none of its old STATUS. -/
theorem startAccepted : Obligations.StartAccepted := by
  intro s data hidle hcheck
  rw [exec_wrCmdStart_of_passed hidle hcheck]
  rfl

/-! ### An operation from START to completion (41_sample R155) -/

/-- What a completion without hazard, error and device memory leaves in the destination: byte j is byte j mod 2 of sample
j div 2 of the snapshot. -/
theorem read_destination_of_complete {s t : State} (hf : s.block.dstFits) (hbus : s.NoBusError)
    (hraced : s.block.raced = false) (hdevice : s.touchesDevice = false) (h : complete s = .next t) {a : Nat}
    (ha : s.block.dstAddr.toNat ≤ a ∧ a < s.block.dstAddr.toNat + s.block.dstSize) :
    t.mem.read a = (s.block.snap.getD ((a - s.block.dstAddr.toNat) / 2) 0#16).extractLsb'
      (8 * ((a - s.block.dstAddr.toNat) % 2)) 8 := by
  cases h.symm.trans (complete_of_noBusError hf hbus)
  rw [completeDone_of_ordinary hraced hdevice, Block.read_writeGrid, if_pos ha]

/-- What an operation without hazard, error and device memory leaves in its destination: the samples of
memory as it stood at START. -/
theorem read_destination_of_operation {s started done : State} {data : Word32} (hidle : s.block.status.busy = false)
    (hcheck : s.block.startCheck = codeNone) (hbus : s.NoBusError) (hdevice : s.touchesDevice = false)
    (hstart : exec (.wrCmdStart data) s = .next started) (hdone : complete started = .next done) {a : Nat}
    (ha : s.block.dstAddr.toNat ≤ a ∧ a < s.block.dstAddr.toNat + s.block.dstSize) :
    done.mem.read a = ((s.block.sample s.mem).getD ((a - s.block.dstAddr.toNat) / 2) 0#16).extractLsb'
      (8 * ((a - s.block.dstAddr.toNat) % 2)) 8 := by
  cases (startAccepted s data hidle hcheck).symm.trans hstart
  refine read_destination_of_complete ?fits ?bus ?raced ?device hdone ?inside
  case fits => exact Block.dstFits_of_startCheck hcheck
  case bus => exact hbus
  case raced => rfl
  case device => exact hdevice
  case inside => exact ha

/-- Settles O55: the samples are equal, and so is where they are stored. -/
theorem operationsAreDeterministic : Obligations.OperationsAreDeterministic := by
  intro s u s1 u1 s2 u2 d e hconfig hread hs hu hcheck hsbus hubus hsdev hudev hs1 hu1 hs2 hu2 a hlow hhigh
  have hsample : s.block.sample s.mem = u.block.sample u.mem :=
    sampleDependsOnReadSetOnly s.block u.block s.mem u.mem hconfig hread
  obtain ⟨hp, hd, hal, hsrc, hdst, hw, hh⟩ := hconfig
  obtain ⟨hchecks, -, -, -, -, -, hsize, -⟩ := Block.derived_congr hp hd hal hsrc hdst hw hh
  have hucheck : u.block.startCheck = codeNone := hchecks.symm.trans hcheck
  have hua : u.block.dstAddr.toNat ≤ a ∧ a < u.block.dstAddr.toNat + u.block.dstSize := by
    rw [← hdst, ← hsize]
    exact ⟨hlow, hhigh⟩
  rw [read_destination_of_operation hs hcheck hsbus hsdev hs1 hs2 ⟨hlow, hhigh⟩,
    read_destination_of_operation hu hucheck hubus hudev hu1 hu2 hua, hsample, hdst]

/-! ### Where a step changes memory (41_sample R149, R150; 60_exceptions R205) -/

/-- A byte that differs lies in the destination region. -/
theorem Block.KeepsOutside.mem_of_ne {b : Block} {before after : Memory} (h : b.KeepsOutside before after) {a : Nat}
    (hne : after.read a ≠ before.read a) : b.dstAddr.toNat ≤ a ∧ a < b.dstAddr.toNat + b.dstSize := by
  by_contra hout
  exact hne (h a hout)

/-- The byte at `a` may change in this step: it lies in WS of a Busy engine, or another agent's move stores it. -/
def State.MayChange (s : State) (a : Nat) : Prop :=
  (s.block.status.busy = true ∧ s.block.dstAddr.toNat ≤ a ∧ a < s.block.dstAddr.toNat + s.block.dstSize) ∨
    ∃ addr : Word32, addr.toNat = a ∧
      ((∃ value, s.agenda.head? = some (.memWrite addr value)) ∨ s.agenda.head? = some (.memWriteUnseen addr))

theorem State.MayChange.of_engine {s : State} {m : Memory} {a : Nat} (hb : s.block.status.busy = true)
    (h : s.block.KeepsOutside s.mem m) (hne : m.read a ≠ s.mem.read a) : s.MayChange a :=
  .inl ⟨hb, h.mem_of_ne hne⟩

/-- Only a completion, a reset of a Busy block and another agent's store touch memory. -/
theorem StepEffect.mayChange {s t : State} (h : StepEffect s t) {a : Nat} (hne : t.mem.read a ≠ s.mem.read a) :
    s.MayChange a := by
  cases h with
  | stays => exact absurd rfl hne
  | transaction => exact absurd rfl hne
  | read => exact absurd rfl hne
  | store addr v m rest n ha hm =>
    have haddr : addr.toNat = a := by
      by_contra hother
      exact hne (by simp [storeByOther, Ne.symm hother])
    refine .inr ⟨addr, haddr, ?_⟩
    rw [ha, List.head?_cons]
    rcases hm with rfl | rfl
    · exact .inl ⟨v, rfl⟩
    · exact .inr rfl
  | release => exact absurd rfl hne
  | resetIdle => exact absurd rfl hne
  | resetBusy rest ha hb hf => exact .of_engine hb (s.block.keepsOutside_fillAny s.mem s.draws fun _ => false) hne
  | failed rest ha hb hf he => exact .of_engine hb (completeWithError_keepsOutside (s.taking rest)) hne
  | ended rest ha hb hf he => exact .of_engine hb (completeDone_keepsOutside (s.taking rest)) hne
  | noTurn => exact absurd rfl hne

/-- Holding a block in reset makes no more bytes change: its engine is idle. -/
theorem State.MayChange.of_heldInReset {s : State} {a : Nat} (h : s.heldInReset.MayChange a) : s.MayChange a := by
  cases hr : s.rst with
  | false => rwa [State.heldInReset_of_released hr] at h
  | true =>
    rw [State.heldInReset_of_asserted hr] at h
    exact .inr (h.resolve_left fun ⟨hb, _⟩ => nomatch hb)

theorem State.heldInReset_mem (s : State) : s.heldInReset.mem = s.mem := by
  unfold State.heldInReset
  split <;> rfl

/-- Settles O52: by the cases of a step. -/
theorem memoryChangesOnlyBy : Obligations.MemoryChangesOnlyBy := by
  intro s t a h hne
  rw [← s.heldInReset_mem] at hne
  exact ((step_cases h).mayChange hne).of_heldInReset

end Sys2Proof.Machine
end

section
/-! PROOFS of O56, O57 and O59: the names the driver takes, the inputs it launches, and what the encoder is handed. -/

namespace Sys2Proof.Machine

/-! ### White space and letter case (42_host_interface R182, steps 1 and 2) -/

theorem isDriverSpace_iff (c : Char) :
    isDriverSpace c = true ↔ (0x09 ≤ c.toNat ∧ c.toNat ≤ 0x0D) ∨ c.toNat = 0x20 := by
  simp [isDriverSpace]

/-- White space is no letter, so step 2 leaves it. -/
theorem upperAscii_of_space {c : Char} (h : isDriverSpace c = true) : upperAscii c = c := by
  rw [isDriverSpace_iff] at h
  exact if_neg (by omega)

/-- What `trimSpace` takes away is white space on both sides. -/
theorem exists_append_trimSpace (name : List Char) : ∃ before after : List Char,
    name = before ++ trimSpace name ++ after ∧ ∀ c ∈ before ++ after, isDriverSpace c = true := by
  have hleft := name.takeWhile_append_dropWhile (p := isDriverSpace)
  have hright := List.rdropWhile_append_rtakeWhile (p := isDriverSpace) (l := name.dropWhile isDriverSpace)
  refine ⟨name.takeWhile isDriverSpace, (name.dropWhile isDriverSpace).rtakeWhile isDriverSpace, ?_, fun c hc => ?_⟩
  · calc name = name.takeWhile isDriverSpace ++ name.dropWhile isDriverSpace := hleft.symm
      _ = name.takeWhile isDriverSpace ++ (trimSpace name ++ _) := congrArg _ hright.symm
      _ = _ := (List.append_assoc _ _ _).symm
  · rcases List.mem_append.mp hc with hc | hc
    · exact List.mem_takeWhile_imp hc
    · exact List.mem_rtakeWhile_imp hc

/-- `dropWhile` stops where a word begins none of whose entries it drops. -/
theorem dropWhile_append_append {α : Type} {p : α → Bool} {before core : List α} (hbefore : ∀ c ∈ before, p c = true)
    (hcore : ∀ c ∈ core, p c = false) (hne : core ≠ []) (after : List α) :
    (before ++ (core ++ after)).dropWhile p = core ++ after := by
  obtain ⟨c, cs, rfl⟩ := List.exists_cons_of_ne_nil hne
  rw [List.dropWhile_append_of_pos hbefore, List.cons_append,
    List.dropWhile_cons_of_neg (by simp [hcore c List.mem_cons_self])]

/-- White space around a word that has none is all that `trimSpace` takes away. -/
theorem trimSpace_append {before core after : List Char} (hspace : ∀ c ∈ before ++ after, isDriverSpace c = true)
    (hcore : ∀ c ∈ core, isDriverSpace c = false) (hne : core ≠ []) : trimSpace (before ++ core ++ after) = core := by
  obtain ⟨hbefore, hafter⟩ := List.forall_mem_append.mp hspace
  have hleft : (before ++ core ++ after).dropWhile isDriverSpace = core ++ after := by
    rw [List.append_assoc, dropWhile_append_append hbefore hcore hne]
  have hright : (core ++ after).reverse.dropWhile isDriverSpace = core.reverse := by
    simpa using dropWhile_append_append (before := after.reverse) (core := core.reverse) (by simpa using hafter)
      (by simpa using hcore) (by simpa using hne) []
  rw [trimSpace, hleft, hright, List.reverse_reverse]

/-! ### parse and display (42_host_interface R182, R183) -/

theorem displayName_injective {p q : Pattern} (h : displayName p = displayName q) : p = q := by
  revert h
  cases p <;> cases q <;> decide

theorem displayPattern_code (p : Pattern) : displayPattern p.code = displayName p := by
  rw [displayPattern, Pattern.ofCode_code]

/-- `parse` compares the name, trimmed and in upper case, with what `display` writes. -/
theorem parsePattern_eq_ok_iff (name : List Char) (code : BitVec 2) :
    parsePattern name = .ok code ↔ (trimSpace name).map upperAscii = displayPattern code := by
  have hname (p : Pattern) (h : (trimSpace name).map upperAscii = displayName p) :
      (Except.ok p.code : Except DriverError (BitVec 2)) = .ok code ↔
        (trimSpace name).map upperAscii = displayPattern code := by
    rw [h, Except.ok.injEq]
    refine ⟨fun hc => by rw [← hc, displayPattern_code], fun hd => ?_⟩
    rw [displayName_injective hd, Pattern.code_ofCode]
  simp only [parsePattern]
  split_ifs with hrggb hbggr hgrbg hgbrg
  · exact hname _ hrggb
  · exact hname _ hbggr
  · exact hname _ hgrbg
  · exact hname _ hgbrg
  · refine ⟨nofun, fun hd => ?_⟩
    rw [displayPattern] at hd
    cases hp : Pattern.ofCode code <;> rw [hp] at hd <;> contradiction

theorem parsePattern_error {name : List Char} {e : DriverError} (h : parsePattern name = .error e) :
    e = .invalidPatternString := by
  simp only [parsePattern] at h
  split_ifs at h
  exact (Except.error.inj h).symm

/-- The four names hold no white space and no lower-case letter. -/
theorem displayPattern_chars (code : BitVec 2) :
    ∀ c ∈ displayPattern code, isDriverSpace c = false ∧ upperAscii c = c := by
  cases hp : Pattern.ofCode code <;>
    simp [displayPattern, hp, displayName, isDriverSpace, upperAscii]

theorem displayPattern_ne_nil (code : BitVec 2) : displayPattern code ≠ [] := by
  revert code; decide

/-- A word that reads in upper case as one of the names holds no white space either. -/
theorem not_space_of_map_upperAscii {core : List Char} {code : BitVec 2} (h : core.map upperAscii = displayPattern code) :
    ∀ c ∈ core, isDriverSpace c = false := by
  intro c hc
  refine Bool.eq_false_iff.mpr fun hspace => ?_
  have hmem : c ∈ displayPattern code := h ▸ upperAscii_of_space hspace ▸ List.mem_map_of_mem hc
  exact Bool.eq_false_iff.mp (displayPattern_chars code c hmem).1 hspace

theorem parsePattern_eq_ok_iff_exists (name : List Char) (code : BitVec 2) :
    parsePattern name = .ok code ↔ ∃ before core after : List Char, name = before ++ core ++ after ∧
      (∀ c ∈ before ++ after, isDriverSpace c = true) ∧ core.map upperAscii = displayPattern code := by
  rw [parsePattern_eq_ok_iff]
  constructor
  · intro h
    obtain ⟨before, after, hname, hspace⟩ := exists_append_trimSpace name
    exact ⟨before, trimSpace name, after, hname, hspace, h⟩
  · rintro ⟨before, core, after, rfl, hspace, hcore⟩
    have hne : core ≠ [] := fun h => displayPattern_ne_nil code (by rw [← hcore, h, List.map_nil])
    rwa [trimSpace_append hspace (not_space_of_map_upperAscii hcore) hne]

theorem parsePattern_displayPattern (code : BitVec 2) : parsePattern (displayPattern code) = .ok code := by
  have hupper : (displayPattern code).map upperAscii = displayPattern code :=
    (List.map_congr_left fun c hc => (displayPattern_chars code c hc).2).trans (List.map_id _)
  exact (parsePattern_eq_ok_iff_exists _ _).mpr ⟨[], displayPattern code, [], by simp, by simp, hupper⟩

/-- Settles O56: trimming splits the name, and no name that `display` writes holds white space or small letters. -/
theorem parseAcceptsExactlyTheNames : Obligations.ParseAcceptsExactlyTheNames := by
  refine ⟨fun name code => ?_, fun name e => parsePattern_error, parsePattern_displayPattern, rfl, rfl, rfl, rfl⟩
  simp only [parsePattern_eq_ok_iff_exists, isDriverSpace_iff]

/-! ### The driver's launch (42_host_interface R184) -/

theorem checkImage_eq_ok_iff (img : DecodedImage) (d16 alpha : Bool) :
    checkImage img = .ok (d16, alpha) ↔ (img.channels = 3 ∨ img.channels = 4) ∧
      (img.bitDepth = 8 ∨ img.bitDepth = 16) ∧ d16 = (img.bitDepth == 16) ∧ alpha = (img.channels == 4) := by
  unfold checkImage
  split_ifs with hchannels hdepth
  · exact ⟨nofun, fun ⟨h, _⟩ => by omega⟩
  · exact ⟨nofun, fun ⟨_, h, _⟩ => by omega⟩
  · rw [Except.ok.injEq, Prod.mk.injEq]
    exact ⟨fun ⟨hd, ha⟩ => ⟨by omega, by omega, hd.symm, ha.symm⟩, fun ⟨_, _, hd, ha⟩ => ⟨hd.symm, ha.symm⟩⟩

/-- The driver answers moves exactly when its three stages all succeed. -/
theorem driverLaunch_eq_ok_iff (name : List Char) (decoded : Except DriverError DecodedImage) (p : Placement)
    (moves : List Move) : driverLaunch name decoded p = .ok moves ↔
      ∃ code img d16 alpha, parsePattern name = .ok code ∧ decoded = .ok img ∧ checkImage img = .ok (d16, alpha) ∧
        moves = launchMoves img code d16 alpha p := by
  constructor
  · intro h
    unfold driverLaunch at h
    split at h
    next => cases h
    next code hparse =>
      split at h
      next => cases h
      next img =>
        split at h
        next => cases h
        next d16 alpha hcheck => exact ⟨code, img, d16, alpha, hparse, rfl, hcheck, (Except.ok.inj h).symm⟩
  · rintro ⟨code, img, d16, alpha, hparse, rfl, hcheck, rfl⟩
    simp only [driverLaunch, hparse, hcheck]

/-- Settles O57: the third stage is the check on channels and depth, which gives DEPTH16 and ALPHA. -/
theorem driverSendsNothingOnFailure : Obligations.DriverSendsNothingOnFailure := by
  intro name decoded p moves
  rw [driverLaunch_eq_ok_iff]
  constructor
  · rintro ⟨code, img, d16, alpha, hparse, hdecoded, hcheck, hmoves⟩
    obtain ⟨hchannels, hdepth, rfl, rfl⟩ := (checkImage_eq_ok_iff img d16 alpha).mp hcheck
    exact ⟨code, img, hparse, hdecoded, hchannels, hdepth, hmoves⟩
  · rintro ⟨code, img, hparse, hdecoded, hchannels, hdepth, hmoves⟩
    exact ⟨code, img, _, _, hparse, hdecoded,
      (checkImage_eq_ok_iff img _ _).mpr ⟨hchannels, hdepth, rfl, rfl⟩, hmoves⟩

/-! ### What the block hands to the encoder (42_host_interface R185) -/

/-- CFAPattern2: the bytes of CFA_PATTERN are the pattern's channel indices, the top left first (10_state R41). -/
theorem cfaPatternWord_bytes (p : Pattern) :
    ((List.range 4).map fun k => (cfaPatternWord p).extractLsb' (8 * k) 8) =
      [0, 1, 2, 3].map fun k => BitVec.ofNat 8 ((channelOffsets p).at k).index := by
  cases p <;> rfl

theorem Block.writeSet_getElem? {b : Block} {k : Nat} (hk : k < b.dstSize) :
    b.writeSet[k]? = some (b.dstAddr.toNat + k) := by
  simp [Block.writeSet, hk]

/-- Settles O59: the registers read as W' and H', and the strip is the write set's bytes in order. -/
theorem encoderInputsOfTheBlock : Obligations.EncoderInputsOfTheBlock := by
  intro s
  have hwidth : (truncEvenWord s.block.srcWidth).toNat = s.block.outWidth := truncEvenWord_toNat _
  have hheight : (truncEvenWord s.block.srcHeight).toNat = s.block.outHeight := truncEvenWord_toNat _
  refine ⟨hwidth, hheight, hheight, ?_, rfl, cfaPatternWord_bytes _, ?_, fun k hk => ?_⟩
  · simp only [encoderInputs, hwidth, hheight, Block.dstSize]
  · simp only [encoderInputs, List.length_map, Block.writeSet_length]
  · simp only [encoderInputs, List.getElem?_map, Block.writeSet_getElem? hk, Option.map_some]

end Sys2Proof.Machine
end

section
/-! PROOF of O54. From its START on, an operation whose host keeps the launch premises is at each step either still under
way, undisturbed, or ended with the closed form in its destination. -/

namespace Sys2Proof.Machine

/-! ### Blocks with the same configuration -/

theorem Block.SameConfig.refl (b : Block) : b.SameConfig b := ⟨rfl, rfl, rfl, rfl, rfl, rfl, rfl⟩

theorem Block.SameConfig.trans {b c d : Block} (h : b.SameConfig c) (g : c.SameConfig d) : b.SameConfig d := by
  obtain ⟨hp, hd, ha, hs, ht, hw, hh⟩ := h
  obtain ⟨gp, gd, ga, gs, gt, gw, gh⟩ := g
  exact ⟨hp.trans gp, hd.trans gd, ha.trans ga, hs.trans gs, ht.trans gt, hw.trans gw, hh.trans gh⟩

theorem Block.SameConfig.regions_eq {b c : Block} (h : b.SameConfig c) :
    b.srcRegion = c.srcRegion ∧ b.dstRegion = c.dstRegion := by
  obtain ⟨hp, hd, ha, hs, ht, hw, hh⟩ := h
  obtain ⟨-, -, -, -, hsrc, hdst, -⟩ := Block.derived_congr hp hd ha hs ht hw hh
  exact ⟨hsrc, hdst⟩

/-- Where the result stands and what it is depend on the configuration without IEN only. -/
theorem Block.SameConfig.holdsResult_iff {b c : Block} (h : b.SameConfig c) (m result : Memory) :
    b.HoldsResult m result ↔ c.HoldsResult m result := by
  obtain ⟨hp, hd, ha, hs, ht, hw, hh⟩ := h
  obtain ⟨-, -, -, -, -, -, -, hwidth, hheight⟩ := Block.derived_congr hp hd ha hs ht hw hh
  simp only [Block.HoldsResult, Block.closedForm, hp, hd, ha, hs, ht, hw, hwidth, hheight]

/-- On a Busy block a register transaction changes at most IEN, DONE and ERR, the latter two only from 1 to 0
(70_reset_and_hazards R225). -/
theorem BlockChange.frozen_of_busy {b c : Block} {m : Memory} {i : Instr} (h : BlockChange b m i c)
    (hb : b.status.busy = true) :
    b.SameConfig c ∧ c.snap = b.snap ∧ c.raced = b.raced ∧ (b.status.err = false → c.status.err = false) := by
  have hne : b.status.busy ≠ false := by simp [hb]
  cases h with
  | same => exact ⟨.refl b, rfl, rfl, id⟩
  | ctrl data => exact ⟨by simp [Block.SameConfig, hb], rfl, rfl, id⟩
  | clear data => exact ⟨⟨rfl, rfl, rfl, rfl, rfl, rfl, rfl⟩, rfl, rfl, fun he => by simp [he]⟩
  | srcAddr data h => exact absurd h hne
  | dstAddr data h => exact absurd h hne
  | srcWidth data h => exact absurd h hne
  | srcHeight data h => exact absurd h hne
  | rejected data h hc => exact absurd h hne
  | started data h hc => exact absurd h hne

/-! ### An operation under way, and its end -/

/-- The operation that block `b` began when memory was `m` is under way in `s`, and nothing has disturbed it. -/
structure State.UnderWay (b : Block) (m : Memory) (s : State) : Prop where
  released : s.rst = false
  busy : s.block.status.busy = true
  noErr : s.block.status.err = false
  config : b.SameConfig s.block
  snapshot : s.block.snap = s.block.sample m
  notRaced : s.block.raced = false
  checked : s.block.startCheck = codeNone
  noBusError : s.NoBusError
  noDevice : s.touchesDevice = false

/-- The operation that block `b` began when memory was `m` has ended in `s` with its result. -/
structure State.EndedWithResult (b : Block) (m : Memory) (s : State) : Prop where
  idle : s.block.status.busy = false
  done : s.block.status.done = true
  noErr : s.block.status.err = false
  result : b.HoldsResult m s.mem

theorem State.noBusError_of_sameConfig {s t : State} (h : s.NoBusError) (hconfig : s.block.SameConfig t.block)
    (hplatform : t.platform = s.platform) : t.NoBusError := by
  obtain ⟨hp, hd, ha, hs, ht, hw, hh⟩ := hconfig
  obtain ⟨-, -, hread, hwrite, -⟩ := Block.derived_congr hp hd ha hs ht hw hh
  rwa [State.NoBusError, ← hread, ← hwrite, hplatform]

theorem State.touchesDevice_of_sameConfig {s t : State} (hconfig : s.block.SameConfig t.block)
    (hplatform : t.platform = s.platform) : t.touchesDevice = s.touchesDevice := by
  obtain ⟨hsrc, hdst⟩ := hconfig.regions_eq
  rw [State.touchesDevice, State.touchesDevice, hsrc, hdst, hplatform]

/-- The operation stays under way as long as nothing it depends on changes. -/
theorem State.UnderWay.of_sameConfig {b : Block} {m : Memory} {s t : State} (h : s.UnderWay b m)
    (hconfig : s.block.SameConfig t.block) (hplatform : t.platform = s.platform) (hreleased : t.rst = false)
    (hbusy : t.block.status.busy = true) (herr : t.block.status.err = false) (hsnap : t.block.snap = s.block.snap)
    (hraced : t.block.raced = s.block.raced) : t.UnderWay b m where
  released := hreleased
  busy := hbusy
  noErr := herr
  config := h.config.trans hconfig
  snapshot := by rw [hsnap, h.snapshot, hconfig.sample_eq]
  notRaced := hraced.trans h.notRaced
  checked := by
    obtain ⟨hp, hd, ha, hs, ht, hw, hh⟩ := hconfig
    obtain ⟨hcheck, -⟩ := Block.derived_congr hp hd ha hs ht hw hh
    rw [← hcheck, h.checked]
  noBusError := State.noBusError_of_sameConfig h.noBusError hconfig hplatform
  noDevice := (State.touchesDevice_of_sameConfig hconfig hplatform).trans h.noDevice

/-! ### START (41_sample R145) -/

/-- The 32-bit write of CMD on the register bus is the command word's write (30_encoding R82). -/
theorem runBusAccess_cmd (data : Word32) (s : State) :
    runBusAccess ⟨s.platform.base + 8, 4, true, data⟩ s = runCommand (encodeWrite 2#4 data) s := by
  rw [runBusAccess_of_legal ((BusAccess.reaches_iff _ _).mpr (by simp)) ((BusAccess.isWord_iff _ _).mpr (by simp))]
  simp [BusAccess.commandWord]

theorem runMove_of_isStart {s : State} {start : Move} (h : start.IsStart s.platform) (hr : s.rst = false) :
    ∃ data, runMove start s = exec (.wrCmdStart data) s := by
  rcases h with ⟨w, data, rfl, hdecode⟩ | ⟨data, hstart, rfl⟩
  · exact ⟨data, by rw [runMove, runCommand_of_released w hr, hdecode]⟩
  · refine ⟨data, ?_⟩
    rw [runMove, runBusAccess_cmd, runCommand_of_released _ hr, decodeWord_encodeWrite, decodeWrite_cmd_of_start hstart]

/-- An accepted START whose checks pass puts the operation under way. -/
theorem step_start_underWay {s : State} {start : Move} {rest : List Move} (hr : s.rst = false)
    (ha : s.agenda = start :: rest) (hstart : start.IsStart s.platform) (hidle : s.block.status.busy = false)
    (hcheck : s.block.startCheck = codeNone) (hbus : s.NoBusError) (hdevice : s.touchesDevice = false) :
    ∃ t, step s = .next t ∧ t.UnderWay s.block s.mem ∧ t.agenda = rest := by
  obtain ⟨data, hrun⟩ := runMove_of_isStart (s := s.taking rest) hstart hr
  have hexec := exec_wrCmdStart_of_passed (s := s.taking rest) hidle hcheck data
  exact ⟨_, (step_of_released hr ha).trans (hrun.trans hexec),
    ⟨hr, rfl, rfl, ⟨rfl, rfl, rfl, rfl, rfl, rfl, rfl⟩, rfl, rfl, hcheck, hbus, hdevice⟩, rfl⟩

/-! ### Completion (41_sample R152, R153) -/

/-- The grid written from a snapshot that Sample took of `m` is the closed form of `m`. -/
theorem Block.holdsResult_writeGrid {b : Block} {m : Memory} (hsnap : b.snap = b.sample m) (before : Memory) :
    b.HoldsResult m (b.writeGrid before) := by
  intro x y hx hy
  obtain ⟨-, hclosed⟩ := sampleIsClosedForm b m
  have hvalue : b.snap.getD (y * b.outWidth + x) 0#16 = b.closedForm m x y := by
    rw [hsnap, List.getD_eq_getElem?_getD, hclosed x y hx hy, Option.getD_some]
  rw [← hvalue]
  exact Block.read_writeGrid_sample hx hy before

theorem State.UnderWay.completeDone_ended {b : Block} {m : Memory} {s : State} (h : s.UnderWay b m) :
    (completeDone s).EndedWithResult b m where
  idle := by simp
  done := by simp
  noErr := by simpa using h.noErr
  result := by
    rw [completeDone_of_ordinary h.notRaced h.noDevice, h.config.holdsResult_iff]
    exact Block.holdsResult_writeGrid h.snapshot s.mem

/-! ### Step by step under the launch premises (42_host_interface R187) -/

/-- A dutiful store lies in neither region, so it sets no hazard. -/
theorem State.UnderWay.keeps_storeByOther {b : Block} {m : Memory} {s : State} (h : s.UnderWay b m) {addr : Nat}
    (hsrc : b.srcRegion.contains addr = false) (hdst : b.dstRegion.contains addr = false) (v : Byte) :
    (storeByOther addr v s).UnderWay b m := by
  obtain ⟨hsrcEq, hdstEq⟩ := h.config.regions_eq
  rw [hsrcEq] at hsrc
  rw [hdstEq] at hdst
  refine h.of_sameConfig ⟨rfl, rfl, rfl, rfl, rfl, rfl, rfl⟩ rfl h.released h.busy h.noErr rfl ?_
  simp [storeByOther, State.busySource, State.busyDestination, hsrc, hdst]

/-- A step whose move, if there is one, is dutiful: the operation goes on, and then the move was not the engine's turn;
or it ends with its result. -/
theorem StepEffect.of_underWay {b : Block} {m : Memory} {s t : State} (hstep : StepEffect s t) (h : s.UnderWay b m)
    (hduty : ∀ mv ∈ s.agenda.head?, mv.Dutiful b) :
    (t.UnderWay b m ∧ ∃ mv, s.agenda = mv :: t.agenda ∧ mv ≠ .engine) ∨ t.EndedWithResult b m := by
  have hnotIdle : s.block.status.busy ≠ false := by simp [h.busy]
  cases hstep with
  | stays ha hidle => exact absurd hidle hnotIdle
  | transaction mv rest w c r ha hm hchange =>
    obtain ⟨hconfig, hsnap, hraced, herr⟩ := hchange.frozen_of_busy h.busy
    refine .inl ⟨?_, mv, ha, ?_⟩
    · exact h.of_sameConfig hconfig rfl h.released (hchange.busy_of_busy h.busy) (herr h.noErr) hsnap hraced
    · rcases hm with rfl | ⟨a, rfl, -⟩ <;> nofun
  | read mv rest r n ha hm =>
    refine .inl ⟨h.of_sameConfig (.refl _) rfl h.released h.busy h.noErr rfl rfl, mv, ha, ?_⟩
    obtain ⟨addr, rfl | rfl⟩ := hm <;> nofun
  | store addr v mv rest n ha hm =>
    have hdutiful : mv.Dutiful b := hduty mv (by rw [ha]; rfl)
    rcases hm with rfl | rfl
    · obtain ⟨hsrc, hdst⟩ := hdutiful
      have htaken : State.UnderWay b m { s with agenda := rest, resp := .none, draws := n } :=
        h.of_sameConfig (.refl _) rfl h.released h.busy h.noErr rfl rfl
      exact .inl ⟨htaken.keeps_storeByOther hsrc hdst v, _, ha, nofun⟩
    · exact hdutiful.elim
  | release rest ha =>
    exact .inl ⟨h.of_sameConfig (.refl _) rfl rfl h.busy h.noErr rfl rfl, _, ha, nofun⟩
  | resetIdle rest ha hidle => exact absurd hidle hnotIdle
  | resetBusy rest ha =>
    have hdutiful : (Move.resetInput true).Dutiful b := hduty _ (by rw [ha]; rfl)
    exact absurd hdutiful nofun
  | failed rest ha hb hf he => exact absurd (s.noBusError_iff.mp h.noBusError) (by simp [he])
  | ended rest =>
    have htaken : State.UnderWay b m (s.taking rest) :=
      h.of_sameConfig (.refl _) rfl h.released h.busy h.noErr rfl rfl
    exact .inr htaken.completeDone_ended
  | noTurn rest ha hidle => exact absurd hidle hnotIdle

/-- The same of the machine's step, which there always is. -/
theorem State.UnderWay.step_next {b : Block} {m : Memory} {s : State} (h : s.UnderWay b m)
    (hduty : ∀ mv ∈ s.agenda.head?, mv.Dutiful b) : ∃ t, step s = .next t ∧
      ((t.UnderWay b m ∧ ∃ mv, s.agenda = mv :: t.agenda ∧ mv ≠ .engine) ∨ t.EndedWithResult b m) := by
  have hheld := State.heldInReset_of_released h.released
  obtain ⟨t, ht⟩ : ∃ t, step s = .next t := by
    rw [step, hheld]
    exact nextMove_next fun _ => Block.dstFits_of_startCheck h.checked
  have heffect : StepEffect s t := hheld ▸ step_cases ht
  exact ⟨t, ht, heffect.of_underWay h hduty⟩

/-- An operation under way ends with its result, at the engine's turn that `later` begins with, or before. -/
theorem State.UnderWay.run_ends {b : Block} {m : Memory} {before later : List Move} {s : State} (h : s.UnderWay b m)
    (ha : s.agenda = before ++ later) (hduty : ∀ mv ∈ before, mv.Dutiful b)
    (hlater : later = [] ∨ later.head? = some .engine) :
    ∃ (k : Nat) (t : State), k ≤ before.length + 1 ∧ run k s = .next t ∧ t.EndedWithResult b m := by
  induction before generalizing s with
  | nil =>
    have hhead : ∀ mv ∈ s.agenda.head?, mv = .engine := by
      rw [ha, List.nil_append]
      rcases hlater with rfl | hlater
      · nofun
      · rw [hlater]
        exact fun mv hmv => (Option.some.inj hmv).symm
    obtain ⟨t, ht, ⟨-, mv, hmv, hne⟩ | hend⟩ := h.step_next fun mv hmv => hhead mv hmv ▸ trivial
    · exact absurd (hhead mv (by rw [hmv]; rfl)) hne
    · exact ⟨1, t, le_rfl, run_succ 0 ht, hend⟩
  | cons first before ih =>
    obtain ⟨hfirst, hrest⟩ := List.forall_mem_cons.mp hduty
    have hhead : s.agenda.head? = some first := by rw [ha]; rfl
    obtain ⟨t, ht, ⟨hunder, mv, hmv, -⟩ | hend⟩ :=
      h.step_next fun mv hmv => Option.some.inj (hhead.symm.trans hmv) ▸ hfirst
    · have hagenda : t.agenda = before ++ later := (List.cons.inj (hmv.symm.trans ha)).2
      obtain ⟨k, u, hk, hrun, hend⟩ := ih hunder hagenda hrest
      exact ⟨k + 1, u, Nat.succ_le_succ hk, (run_succ k ht).trans hrun, hend⟩
    · exact ⟨1, t, by simp, run_succ 0 ht, hend⟩

/-- Settles O54: START puts the operation under way, and each further step keeps it so or ends it with its result. -/
theorem operationYieldsClosedForm : Obligations.OperationYieldsClosedForm := by
  intro s start before later hr ha hstart hidle hcheck hbus hdevice hduty hlater
  obtain ⟨u, hu, hunder, hagenda⟩ := step_start_underWay hr ha hstart hidle hcheck hbus hdevice
  obtain ⟨k, t, hk, hrun, hend⟩ := hunder.run_ends hagenda hduty hlater
  exact ⟨k + 1, t, Nat.succ_le_succ hk, (run_succ k hu).trans hrun, hend.idle, hend.done, hend.noErr, hend.result⟩

end Sys2Proof.Machine
end

section
/-! PROOF of O38: however an operation ends, memory changes in the destination region only, which StartCheck has kept
apart from the source region. -/

namespace Sys2Proof.Machine

/-! ### The end of an operation keeps memory outside the destination region -/

theorem complete_keepsOutside {s t : State} (h : complete s = .next t) : s.block.KeepsOutside s.mem t.mem := by
  rcases complete_cases s with ⟨-, e⟩ | ⟨-, -, e⟩ | ⟨-, -, e⟩ <;> rw [e] at h <;> cases h
  · exact completeWithError_keepsOutside s
  · exact completeDone_keepsOutside s

theorem resetBlock_keepsOutside {s t : State} (h : resetBlock s = .next t) : s.block.KeepsOutside s.mem t.mem := by
  rcases resetBlock_cases s with ⟨-, e⟩ | ⟨-, -, e⟩ | ⟨-, -, e⟩ <;> rw [e] at h <;> cases h
  · exact fun _ _ => rfl
  · exact s.block.keepsOutside_fillAny s.mem s.draws fun _ => false

/-! ### The regions of a checked operation lie apart (41_sample R147) -/

/-- The checks cover the whole source region, also the bytes no sample is read from. -/
theorem Block.dstRegion_apart_of_startCheck {b : Block} (hcheck : b.startCheck = codeNone) {a : Nat}
    (hsrc : b.srcRegion.contains a = true) : ¬ (b.dstAddr.toNat ≤ a ∧ a < b.dstAddr.toNat + b.dstSize) := by
  obtain ⟨-, -, hapart⟩ := b.startCheck_eq_none_iff.mp hcheck
  exact fun hdst => hapart <|
    (AddrRange.overlaps_iff _ _).mpr ⟨a, hsrc, (b.dstRegion.contains_iff a).mpr hdst⟩

/-- Settles O38: each ending keeps memory outside the destination region, and the source region lies there. -/
theorem sourceNeverWritten : Obligations.SourceNeverWritten := by
  intro s t hs hb hend a hlow hhigh
  have hkeeps : s.block.KeepsOutside s.mem t.mem := hend.elim complete_keepsOutside resetBlock_keepsOutside
  obtain ⟨-, -, hsound, -⟩ := hs
  obtain ⟨hcheck, -⟩ := hsound hb
  have hsrc : s.block.srcRegion.contains a = true := (s.block.srcRegion.contains_iff a).mpr ⟨hlow, hhigh⟩
  exact hkeeps a (Block.dstRegion_apart_of_startCheck hcheck hsrc)

end Sys2Proof.Machine
end

section
/-! PROOFS of O8, O20, O41, O42, O43, O44, O50 and O53: reset, the hazards of other agents' accesses, and what a Busy
engine holds back and how long. -/

namespace Sys2Proof.Machine

/-! ### A step runs the first move, also under reset (70_reset_and_hazards R220) -/

theorem State.heldInReset_eq_withBlock (s : State) :
    s.heldInReset = s.withBlock (if s.rst then Block.reset else s.block) := by
  cases h : s.rst with
  | false => exact State.heldInReset_of_released h
  | true => exact State.heldInReset_of_asserted h

theorem step_of_move {s : State} {m : Move} {rest : List Move} (ha : s.agenda = m :: rest) :
    step s = runMove m ((s.withBlock (if s.rst then Block.reset else s.block)).taking rest) := by
  rw [step, State.heldInReset_eq_withBlock, nextMove, State.withBlock_agenda, ha]
  rfl

theorem step_of_asserted {s : State} {m : Move} {rest : List Move} (hr : s.rst = true) (ha : s.agenda = m :: rest) :
    step s = runMove m ((s.withBlock Block.reset).taking rest) := by
  rw [step_of_move ha, if_pos hr]

/-! ### Transactions under reset (70_reset_and_hazards R220) -/

theorem runCommand_write_of_asserted {w : CommandWord} {s : State} (hr : s.rst = true) (hw : w.isWrite = true) :
    runCommand w s = .next s := by
  simp [runCommand, hr, hw]

theorem runCommand_read {w : CommandWord} (hw : w.isWrite = false) (s : State) :
    runCommand w s = exec (decodeWord w) s := by
  simp [runCommand, hw]

/-- Every word offset reads as one word, which depends on the block only. -/
theorem exec_decodeRead_of_block_eq (woff : Woff) {s u : State} (h : u.block = s.block) :
    ∃ v, exec (decodeRead woff) s = .next (s.answer (.word v)) ∧
      exec (decodeRead woff) u = .next (u.answer (.word v)) := by
  obtain ⟨b, _, _, _, _, _, _⟩ := s
  obtain ⟨c, _, _, _, _, _, _⟩ := u
  obtain rfl : c = b := h
  rcases woff.cases16 with rfl | rfl | rfl | rfl | rfl | rfl | rfl | rfl | rfl | rfl | rfl | rfl | rfl | rfl | rfl | rfl
    <;> exact ⟨_, rfl, rfl⟩

/-- A read of a block at its reset values returns what it returns at the reset state. -/
theorem runCommand_read_of_reset_block {w : CommandWord} {s : State} (hw : w.isWrite = false)
    (hb : s.block = Block.reset) : ∃ v, exec (decodeWord w) State.reset = .next { State.reset with resp := .word v } ∧
      runCommand w s = .next (s.answer (.word v)) := by
  rw [runCommand_read hw, decodeWord_of_read hw]
  exact exec_decodeRead_of_block_eq w.woff hb

/-- Settles O8: the block stands at its reset values when the move runs; a bus access is then one of the three things it
always is, and a legal one is its command word. -/
theorem transactionsUnderReset : Obligations.TransactionsUnderReset := by
  intro s rest hr
  refine ⟨fun w ha => ?_, fun a ha => ?_⟩
  · have hstep : step s = runCommand w ((s.withBlock Block.reset).taking rest) := step_of_asserted hr ha
    refine ⟨fun hw => hstep.trans (runCommand_write_of_asserted hr hw), fun hw => ?_⟩
    obtain ⟨v, hreset, hrun⟩ := runCommand_read_of_reset_block (s := (s.withBlock Block.reset).taking rest) hw rfl
    exact ⟨v, hreset, hstep.trans hrun⟩
  · have hstep : step s = runBusAccess a ((s.withBlock Block.reset).taking rest) := step_of_asserted hr ha
    refine ⟨fun hout => ?_, fun hlow hhigh hbad => ?_, fun hlow hhigh hbytes halign => ?_⟩
    · have hmiss : ¬ a.reaches s.platform = true := by rw [BusAccess.reaches_iff]; omega
      exact hstep.trans (runBusAccess_of_outside hmiss)
    · have hin : a.reaches s.platform = true := (a.reaches_iff _).mpr ⟨hlow, hhigh⟩
      have hword : ¬ a.isWord s.platform = true := by rw [BusAccess.isWord_iff]; omega
      exact hstep.trans (runBusAccess_of_illegal hin hword)
    · have hin : a.reaches s.platform = true := (a.reaches_iff _).mpr ⟨hlow, hhigh⟩
      have hword : a.isWord s.platform = true := (a.isWord_iff _).mpr ⟨hbytes, halign⟩
      have hcommand := hstep.trans (runBusAccess_of_legal hin hword)
      have hdir : (a.commandWord s.platform).isWrite = a.isWrite := a.commandWord_isWrite _
      refine ⟨fun hw => hcommand.trans (runCommand_write_of_asserted hr (hdir.trans hw)), fun hw => ?_⟩
      obtain ⟨v, hreset, hrun⟩ :=
        runCommand_read_of_reset_block (s := (s.withBlock Block.reset).taking rest) (hdir.trans hw) rfl
      exact ⟨a.commandWord s.platform, v, hdir.trans hw, BusAccess.commandWord_woff_toNat hin, hreset,
        hcommand.trans hrun⟩

/-! ### Asserting and releasing reset (70_reset_and_hazards R220, R221) -/

theorem resetBlock_of_idle {s : State} (hidle : s.block.status.busy = false) :
    resetBlock s = .next (s.withBlock Block.reset) := by
  simp [resetBlock, hidle]

theorem resetBlock_of_busy {s : State} (hb : s.block.status.busy = true) (hf : s.block.dstFits) :
    resetBlock s = .next ((s.fillDestination fun _ => false).withBlock Block.reset) := by
  simp [resetBlock, hb, hf]

/-- Settles O41: an idle block is idle also when it is held at its reset values. -/
theorem resetWhileIdle : Obligations.ResetWhileIdle := by
  intro s rest
  refine ⟨fun hidle ha => ?_, step_of_move⟩
  have hheld : (if s.rst then Block.reset else s.block).status.busy = false := by
    split
    · rfl
    · exact hidle
  exact (step_of_move ha).trans (resetBlock_of_idle hheld)

/-- Reset asserted on a Busy block: its write set is filled with free bytes, and no more of the operation is left. -/
theorem step_assert_of_busy {s : State} {rest : List Move} (hr : s.rst = false) (hb : s.block.status.busy = true)
    (hf : s.block.dstFits) (ha : s.agenda = .resetInput true :: rest) :
    step s = .next { s with
      block := Block.reset, rst := true, agenda := rest, resp := .none,
      mem := s.mem.fillAny s.block.dstAddr.toNat s.block.dstSize s.draws fun _ => false,
      draws := s.draws + s.block.dstSize } :=
  (step_of_released hr ha).trans (resetBlock_of_busy (s := { s.taking rest with rst := true }) hb hf)

/-- Settles O42: what the fill leaves, inside the write set and outside. -/
theorem resetWhileBusy : Obligations.ResetWhileBusy := by
  intro s rest hr hb hf ha
  refine ⟨_, step_assert_of_busy hr hb hf ha, rfl, rfl, rfl, rfl,
    s.block.keepsOutside_fillAny s.mem s.draws fun _ => false, fun k hk => ?_, rfl, rfl, rfl⟩
  rw [Memory.read_fillAny, if_pos ⟨by omega, by omega, rfl⟩, Nat.add_sub_cancel_left]

/-! ### Other agents' memory accesses (70_reset_and_hazards R228, R229) -/

theorem State.busySource_iff (s : State) (addr : Nat) : s.busySource addr = true ↔
    s.block.status.busy = true ∧ s.block.srcAddr.toNat ≤ addr ∧ addr < s.block.srcAddr.toNat + s.block.srcSize := by
  rw [State.busySource, Bool.and_eq_true, AddrRange.contains_iff]
  rfl

theorem State.busyDestination_iff (s : State) (addr : Nat) : s.busyDestination addr = true ↔
    s.block.status.busy = true ∧ s.block.dstAddr.toNat ≤ addr ∧ addr < s.block.dstAddr.toNat + s.block.dstSize := by
  rw [State.busyDestination, Bool.and_eq_true, AddrRange.contains_iff]
  rfl

theorem storeByOther_raced_iff (addr : Nat) (v : Byte) (s : State) :
    (storeByOther addr v s).block.raced = true ↔
      s.block.raced = true ∨ s.busySource addr = true ∨ s.busyDestination addr = true := by
  simp [storeByOther]

/-- Settles O43: the step is the store, and each region of the hazard asks for BUSY. -/
theorem memoryWriteHazard : Obligations.MemoryWriteHazard := by
  intro s addr value rest hr ha
  refine ⟨_, step_of_released hr ha, fun a => Memory.read_write s.mem addr.toNat value a, ⟨_, rfl, ?_⟩,
    rfl, hr, rfl, rfl⟩
  refine (storeByOther_raced_iff addr.toNat value (s.taking rest)).trans ?_
  rw [State.busySource_iff, State.busyDestination_iff, and_or_left]

theorem hostRead_of_hazard {s : State} {addr : Word32} (h : s.busyDestination addr.toNat = true) :
    hostRead addr s = .next (readAnyByte s) :=
  if_pos h

theorem hostRead_of_no_hazard {s : State} {addr : Word32} (h : ¬ s.busyDestination addr.toNat = true) :
    hostRead addr s = .next (s.answer (.byte (s.mem.read addr.toNat))) :=
  if_neg h

/-- Settles O44: with and without the hazard. -/
theorem memoryReadHazard : Obligations.MemoryReadHazard := by
  intro s addr rest hr ha
  have hstep : step s = hostRead addr (s.taking rest) := step_of_released hr ha
  rw [hstep, ← s.busyDestination_iff]
  exact ⟨hostRead_of_hazard (s := s.taking rest), hostRead_of_no_hazard (s := s.taking rest)⟩

/-! ### What a Busy engine holds back (70_reset_and_hazards R225, R227) -/

/-- Settles O20: START asks for BUSY before anything else. -/
theorem startWhileBusyIgnored : Obligations.StartWhileBusyIgnored := fun s _data hb =>
  if_pos (c := s.block.status.busy = true) hb

/-- A transaction on a Busy block is frozen out; the engine and other agents write no configuration register. -/
theorem StepEffect.sameConfig_of_busy {s t : State} (h : StepEffect s t) (hb : s.block.status.busy = true)
    (hreleased : t.rst = false) : s.block.SameConfig t.block := by
  cases h with
  | stays => exact .refl _
  | transaction m rest w b r ha hm hchange => exact (hchange.frozen_of_busy hb).1
  | read => exact .refl _
  | store => exact ⟨rfl, rfl, rfl, rfl, rfl, rfl, rfl⟩
  | release => exact .refl _
  | resetIdle rest ha hidle => exact absurd hidle (by simp [hb])
  | resetBusy => cases hreleased
  | failed => exact ⟨rfl, rfl, rfl, rfl, rfl, rfl, rfl⟩
  | ended => exact ⟨rfl, rfl, rfl, rfl, rfl, rfl, rfl⟩
  | noTurn => exact .refl _

/-- Settles O50: by the cases of a step, with nothing left to hold in reset. -/
theorem configurationFrozenWhileBusy : Obligations.ConfigurationFrozenWhileBusy :=
  fun _ _ hs hb h hreleased => (hs.stepEffect h).sameConfig_of_busy hb hreleased

/-! ### An operation ends (70_reset_and_hazards R232) -/

/-- A step of a Busy block ends the operation or uses up a move; without a move it is the engine's turn. -/
theorem StepEffect.ends_or_takes_move {s t : State} (h : StepEffect s t) (hb : s.block.status.busy = true) :
    t.block.status.busy = false ∨ ∃ m, s.agenda = m :: t.agenda := by
  cases h with
  | stays ha hidle => exact absurd hidle (by simp [hb])
  | transaction m rest w b r ha => exact .inr ⟨m, ha⟩
  | read m rest r n ha => exact .inr ⟨m, ha⟩
  | store addr v m rest n ha => exact .inr ⟨m, ha⟩
  | release rest ha => exact .inr ⟨_, ha⟩
  | resetIdle => exact .inl rfl
  | resetBusy => exact .inl rfl
  | failed => exact .inl rfl
  | ended => exact .inl rfl
  | noTurn rest ha => exact .inr ⟨_, ha⟩

/-- The agenda is as long as the operation can last, but for the last step. -/
theorem State.Inv.run_ends {s : State} {moves : List Move} (hs : s.Inv) (hb : s.block.status.busy = true)
    (ha : s.agenda = moves) :
    ∃ (k : Nat) (t : State), k ≤ moves.length + 1 ∧ run k s = .next t ∧ t.block.status.busy = false := by
  induction moves generalizing s with
  | nil =>
    obtain ⟨t, ht⟩ := everyStepHasANextState s hs
    rcases (hs.stepEffect ht).ends_or_takes_move hb with hidle | ⟨m, hm⟩
    · exact ⟨1, t, le_rfl, run_succ 0 ht, hidle⟩
    · exact absurd (ha.symm.trans hm) nofun
  | cons first later ih =>
    obtain ⟨t, ht⟩ := everyStepHasANextState s hs
    cases hidle : t.block.status.busy with
    | false => exact ⟨1, t, by simp, run_succ 0 ht, hidle⟩
    | true =>
      rcases (hs.stepEffect ht).ends_or_takes_move hb with hend | ⟨m, hm⟩
      · exact absurd hend (by simp [hidle])
      · have hlater : t.agenda = later := (List.cons.inj (hm.symm.trans ha)).2
        obtain ⟨k, u, hk, hrun, hend⟩ := ih (stepKeepsInv s t hs ht) hidle hlater
        exact ⟨k + 1, u, Nat.succ_le_succ hk, (run_succ k ht).trans hrun, hend⟩

/-- Settles O53: by induction on the agenda, with the invariant kept at each step. -/
theorem operationEnds : Obligations.OperationEnds :=
  fun _ hs hb => hs.run_ends hb rfl

end Sys2Proof.Machine
end
